-- ==== Sys2Proof/Word.lean ====
section
/-! DEFINITION. The widths of the block's values (rule R10): `u8`, `u16` and `u32`, all unsigned. -/

namespace Sys2Proof

/-- `u8`: one byte, bit 0 least significant (R10). -/
abbrev Byte := BitVec 8

/-- `u16`: addresses, quantities and the CRC (R6, R10). -/
abbrev Word := BitVec 16

/-- `u32`: the decoded payload, the bits of a binary32 (R6, R145). -/
abbrev Bits32 := BitVec 32

end Sys2Proof
end

