-- ==== Sys2Proof/Machine/Operands.lean ====
section
/-! DEFINITION. Operand forms: how 16-bit and 32-bit values are split into bytes and assembled from
them (rules R40, R41, R68), and how a part of a byte sequence is taken (rule R10). Nothing is
sign-extended. -/

namespace Sys2Proof.Machine

/-- `v[7:0]` (R10). -/
def lo8 (v : Word) : Byte := v.extractLsb' 0 8

/-- `v[15:8]` (R10). -/
def hi8 (v : Word) : Byte := v.extractLsb' 8 8

/-- `zext_16(b)` (R10). -/
def zext16 (b : Byte) : Word := b.setWidth 16

/-- A 16-bit value from its bytes, as `zext_16(hi) << 8 | zext_16(lo)` (R68). -/
def joinWord (hi lo : Byte) : Word := (zext16 hi <<< 8) ||| zext16 lo

/-- Bytes read as one number, the first most significant (R11, R41). -/
def bigEndian (bs : List Byte) : Nat := bs.foldl (fun acc b => acc * 256 + b.toNat) 0

/-- The `n` bytes of an `8n`-bit value, most significant first (R11). -/
def splitBytes (n : Nat) (v : BitVec (8 * n)) : List Byte :=
  (List.range n).map fun j => v.extractLsb' (8 * (n - 1 - j)) 8

/-- `s[i..j]`, both ends included and empty when `j < i` (R10). -/
def slice (s : List Byte) (i j : Nat) : List Byte :=
  if j < i then [] else (s.drop i).take (j + 1 - i)

end Sys2Proof.Machine
end

