-- ==== Sys2Proof/Config.lean ====
section
/-! DEFINITION. The fixed constants of the block (rule R6), the bounds and the value of its one
configuration parameter (rule R7), and the fixed values of the host profile (rules R8 and R171).
The spec leaves no value undefined after a command, so nothing here is opaque. -/

namespace Sys2Proof.Config

/-- CRC_POLY, reflected (R6). -/
def crcPoly : Word := 0xA001

/-- CRC_INIT (R6). -/
def crcInit : Word := 0xFFFF

/-- A request frame is exactly 8 bytes (R6, R66). -/
def requestLen : Nat := 8

/-- The 3-byte header of a response frame (R67). -/
def headerLen : Nat := 3

/-- The payload is 4 bytes (R6, R143). -/
def payloadLen : Nat := 4

/-- RESP_LEN of this hardware (R7). -/
def respLenHere : Nat := 9

/-- The least legal RESP_LEN; a configuration below it is refused (R7, R26). -/
def respLenMin : Nat := 5

/-- FC_READ_INPUT, the function code the host profile uses (R8, R171). -/
def fcReadInput : Byte := 0x04

/-- QTY_PER_READ, the registers read per quantity by the host profile (R8, R171). -/
def qtyPerRead : Word := 2

/-- SETTLE_MS, the default of the host's settle interval; no rule reads it (R8, R175). -/
def settleMsDefault : Nat := 200

end Sys2Proof.Config
end

