-- ==== Sys2Proof/Syntax.lean ====
section
/-! DEFINITION. The block's instructions: one constructor per row of spec/opcode_table.json
(rule R60). The command code alone selects the operation and no bit of CMD is a modifier (R61),
so no constructor carries a field: the operands stand in the port registers (R62 to R64). -/

namespace Sys2Proof

/-- The three operations of the block (R60). -/
inductive Instr where
  /-- CRC, `CMD = 0x01`, format C (R62, R102). -/
  | crc
  /-- BUILD, `CMD = 0x02`, format B (R63, R120). -/
  | build
  /-- DECODE, `CMD = 0x03`, format D (R64, R140). -/
  | decode
  deriving DecidableEq, Repr

end Sys2Proof
end

