-- ==== Sys2Proof/Command.lean ====
section
/-! DEFINITION. Written commands: the syntax of rule R73 and the listing form of rule R65.
A written command carries its operands as numbers, which may be wider than the registers they are
meant for; Sys2Proof/WellFormed.lean says which ones can be presented to the block. -/

namespace Sys2Proof

/-- One line of a program (R73). -/
inductive Command where
  /-- `CRC [b0, ..., bn-1]`. -/
  | crc (data : List Nat)
  /-- `BUILD sid, fc, addr, qty`. -/
  | build (sid fc addr qty : Nat)
  /-- `DECODE [b0, ..., bn-1]`. -/
  | decode (raw : List Nat)
  /-- `ILLEGAL code`: a command whose code selects no operation. -/
  | illegal (code : Nat)
  deriving DecidableEq, Repr

/-- The pseudo-instruction `READREQ sid, addr`: `BUILD sid, 0x04, addr, 2` (R74). -/
def readReq (sid addr : Nat) : Command :=
  .build sid Config.fcReadInput.toNat addr Config.qtyPerRead.toNat

/-- The marks of a listing line (R65). -/
inductive Token where
  /-- A byte in hex. -/
  | byte (b : Byte)
  /-- The bar between the command code and its operands. -/
  | bar
  /-- The length of IN, in decimal, between braces. -/
  | count (n : Nat)
  deriving DecidableEq, Repr

end Sys2Proof
end

