-- ==== Sys2Proof/WellFormed.lean ====
section
/-! DEFINITION. Which instructions and which written commands are well-formed.
An instruction carries no field, so none is ill-formed (rule R61). A written command is well-formed
when each operand fits its register (rules R22, R70, R73 and decision D14) and when a code written
as illegal is one (rule R71). -/

namespace Sys2Proof

/-- Every command code with an operation is well-formed: no bit of it is a modifier (R61). -/
def Instr.wellFormed : Instr → Bool
  | .crc => true
  | .build => true
  | .decode => true

/-- The number fits an 8-bit register (R10). -/
def fitsByte (n : Nat) : Bool := decide (n < 256)

/-- The number fits a 16-bit register (R10). -/
def fitsWord (n : Nat) : Bool := decide (n < 65536)

/-- The codes `0x00` and `0x04` to `0xFF` (R71). -/
def isIllegalCode (n : Nat) : Bool := fitsByte n && decide (n < 1 ∨ 3 < n)

/-- The ranges of R73. `IN` may have any length (R23, R70). -/
def Command.wellFormed : Command → Bool
  | .crc data => data.all fitsByte
  | .build sid fc addr qty => fitsByte sid && fitsByte fc && fitsWord addr && fitsWord qty
  | .decode raw => raw.all fitsByte
  | .illegal code => isIllegalCode code

end Sys2Proof
end

