-- ==== Sys2Proof/Decode.lean ====
section
/-! DEFINITION. Decoding and encoding: the command code (rules R61 and R71, spec/opcode_table.json)
and the listing form of a whole command (rule R65). Both decoders are total and reject by name. -/

namespace Sys2Proof

open Sys2Proof.Machine (lo8 hi8 joinWord)

/-- Why a command code is rejected. -/
inductive DecodeError where
  /-- The code selects no operation (R71). The machine does not stop on it: the command completes
  with `err(illegalCommand)` (R202). -/
  | illegalCommand (code : Byte)
  deriving DecidableEq, Repr

/-- The operation `CMD[7:0]` selects (the table of R61). -/
def decodeCmd (c : Byte) : Except DecodeError Instr :=
  if c = 0x01 then .ok .crc
  else if c = 0x02 then .ok .build
  else if c = 0x03 then .ok .decode
  else .error (.illegalCommand c)

/-- The command code of an operation (the table of R61). -/
def encode : Instr → Byte
  | .crc => 0x01
  | .build => 0x02
  | .decode => 0x03

/-- What `decodeCmd` reads from the bits of a table row. The whole instruction is the 8 bits of CMD,
and a wider value cannot be presented (R61, R70); see log entry 23. -/
def decodeTableWord (nbits w : Nat) : Option Instr :=
  if nbits = 8 ∧ w < 256 then
    match decodeCmd (BitVec.ofNat 8 w) with
    | .ok i => some i
    | .error _ => none
  else none

/-! ## The listing form (R65) -/

/-- Why a listing line is rejected. -/
inductive ListingError where
  /-- The line does not begin with a command byte. -/
  | noCommandByte
  /-- The operands do not have the form of the command's format. -/
  | badOperands
  /-- The count of a format C or D line is not the number of bytes that follow. -/
  | lengthMismatch
  deriving DecidableEq, Repr

/-- The bytes of a run of byte marks, or nothing when another mark stands among them. -/
def bytesOf : List Token → Option (List Byte)
  | [] => some []
  | .byte b :: rest => (bytesOf rest).map (b :: ·)
  | .bar :: _ => none
  | .count _ :: _ => none

/-- The operands of formats C and D: the bar, the count, then that many bytes (R65). -/
def decodeData : List Token → Except ListingError (List Nat)
  | .bar :: .count n :: rest =>
    match bytesOf rest with
    | some bs => if bs.length = n then .ok (bs.map BitVec.toNat) else .error .lengthMismatch
    | none => .error .badOperands
  | _ => .error .badOperands

/-- The operands of format B in frame order: `SID FC ADDR[15:8] ADDR[7:0] QTY[15:8] QTY[7:0]`
(R65). -/
def decodeBuildOperands : List Token → Except ListingError Command
  | [.bar, .byte sid, .byte fc, .byte ah, .byte al, .byte qh, .byte ql] =>
    .ok (.build sid.toNat fc.toNat (joinWord ah al).toNat (joinWord qh ql).toNat)
  | _ => .error .badOperands

/-- Reads one listing line (R65). A line with an illegal code has no operands (R71). -/
def decodeListing : List Token → Except ListingError Command
  | .byte c :: rest =>
    match decodeCmd c with
    | .ok .crc => (decodeData rest).map .crc
    | .ok .build => decodeBuildOperands rest
    | .ok .decode => (decodeData rest).map .decode
    | .error _ => if rest = [] then .ok (.illegal c.toNat) else .error .badOperands
  | _ => .error .noCommandByte

/-- The marks of a format C or D operand (R65). -/
def encodeData (data : List Nat) : List Token :=
  .bar :: .count data.length :: data.map fun n => .byte (BitVec.ofNat 8 n)

/-- The two bytes of a 16-bit operand, high byte first (R65). -/
def encodeWord (n : Nat) : List Token :=
  [.byte (hi8 (BitVec.ofNat 16 n)), .byte (lo8 (BitVec.ofNat 16 n))]

/-- Writes one listing line (R65). -/
def encodeListing : Command → List Token
  | .crc data => .byte (encode .crc) :: encodeData data
  | .build sid fc addr qty =>
    [.byte (encode .build), .bar, .byte (BitVec.ofNat 8 sid), .byte (BitVec.ofNat 8 fc)]
      ++ encodeWord addr ++ encodeWord qty
  | .decode raw => .byte (encode .decode) :: encodeData raw
  | .illegal code => [.byte (BitVec.ofNat 8 code)]

end Sys2Proof
end

