-- ==== Sys2Proof/Machine/State.lean ====
section
/-! DEFINITION. The state of the block (file 10_state.md) and its value after reset (rule R32), the
results a command leaves in RES, and the reasons a step or a move of the host can stop. -/

namespace Sys2Proof.Machine

/-- The errors a command can end with (R200). They are results, not traps (R206). There is one
constructor for the empty, short or long read, which the source calls by two names (conflict C1). -/
inductive ErrorKind where
  /-- `IncompleteFrame`, also called `NoResponse`: DECODE, wrong length (R141). -/
  | incompleteFrame
  /-- `ChecksumMismatch`: DECODE, right length, wrong trailer (R142). -/
  | checksumMismatch
  /-- `MalformedPayload`: DECODE, right trailer, payload not of 4 bytes (R143). -/
  | malformedPayload
  /-- `IllegalCommand`: a code that selects no operation (R202). -/
  | illegalCommand
  deriving DecidableEq, Repr

/-- A request frame: exactly 8 bytes, by the names of R66. -/
structure Frame where
  slaveId : Byte
  functionCode : Byte
  addrHi : Byte
  addrLo : Byte
  countHi : Byte
  countLo : Byte
  crcLo : Byte
  crcHi : Byte
  deriving DecidableEq, Repr

/-- What a completed command leaves in RES (10_state.md, type `Result`). -/
inductive Result where
  /-- CRC result (R102). -/
  | crc (lo hi : Byte)
  /-- BUILD result (R120). -/
  | frame (f : Frame)
  /-- DECODE success: the bits of a binary32, unchanged (R140, R145). -/
  | value (bits : Bits32)
  /-- DECODE failure or illegal command: the name only (R200). -/
  | err (e : ErrorKind)
  deriving DecidableEq, Repr

/-- The phase of R31. -/
inductive Phase where
  /-- No command is running; the block accepts one. -/
  | idle
  /-- The host has started a command and the step that runs it has not been taken (log entry 2). -/
  | busy
  deriving DecidableEq, Repr

/-- The state of one block: its port registers (R22), its result register (R24), its configuration
register (R26) and its phase (R31). `STATUS` is a view of `res` (R27). `ACC`, `i`, `k` and `OUT`
do not outlive a command (R25, R28, R29, R30). -/
structure State where
  /-- `CMD`: the command code (R22, R61). -/
  cmd : Byte
  /-- `SID`: the slave id (R22). -/
  sid : Byte
  /-- `FC`: the function code (R22). -/
  fc : Byte
  /-- `ADDR`: the start register address (R22). -/
  addr : Word
  /-- `QTY`: the register count (R22). -/
  qty : Word
  /-- `IN`: the bytes to checksum or decode, of any length (R23). -/
  input : List Byte
  /-- `RES`: no value, or one result (R24). -/
  res : Option Result
  /-- `RESP_LEN` (R26). -/
  respLen : Nat
  /-- Idle or busy (R31). -/
  phase : Phase
  deriving DecidableEq, Repr

/-- The block of this hardware right after reset (R32): RES holds no value, the block is idle and
RESP_LEN is 9. R32 leaves the port registers unspecified; the zeros and the empty sequence are the
model's choice (log entry 3, DESIGN CHOICE, unsafe). -/
def State.reset : State where
  cmd := 0
  sid := 0
  fc := 0
  addr := 0
  qty := 0
  input := []
  res := none
  respLen := Config.respLenHere
  phase := .idle

/-- The model faults of R203. A faulted run has no next state, so a fault is never cleared. -/
inductive Fault where
  /-- A read of RES or STATUS by the host while RES holds no value. Raised by `readRes` and, through it,
  by `readStatus`; no instruction reaches it. The spec states this stop and no other effect: R24,
  "Reading `RES` while it holds no value is a **model fault** (`ResultUnwritten`). A model must not
  read it as zero."; so also R27, R32, R184, R203, D6 and I1. Safe (D6: toward unprovable). -/
  | resultUnwritten
  /-- A MemRead outside IN (R43), or an access outside the bytes of OUT (log entry 7). Raised by
  `memRead`, `memWrite` and `outByte`; no command reaches it. Safe. -/
  | bufferOverrun
  /-- RESP_LEN is below 5 (R26). Raised by `boot`, by a step and by DECODE in a state that holds such
  a value. Safe: the spec refuses the configuration (decision D5). -/
  | configRefused
  deriving DecidableEq, Repr

/-- The moves that are not made. -/
inductive Refusal where
  /-- An instruction without a meaning in the model. No arm of `exec` raises it. Safe. -/
  | notModelled (mnemonic : String)
  /-- The host writes a port register or starts a command while one runs: R31, R240 and R184 (a)
  give it no move. Raised by `writePort`, `start` and `issue`. The spec says that leaving the move
  out errs toward proving: unsafe (log entry 13). -/
  | portBusy
  /-- A written command with an operand wider than its register, or with a code written as illegal
  that is not: it cannot be presented (R70, R73, decision D14). Raised by `issue`. Safe. -/
  | operandRange
  /-- The host model finds in RES a result that its own command does not give. Raised by `pollStep`;
  no run of the host model reaches it. Safe. -/
  | unexpectedResult
  /-- A poll cycle is started while one runs, by the same poller or by another on the same transport:
  one exchange at a time (R181). Raised by `pollAll` and `busPollAll`. R184 (b) says that leaving the
  move out errs toward proving: unsafe (log entry 25). -/
  | cycleRunning
  deriving DecidableEq, Repr

/-- The outcome of a step of the block or of a move on its ports. -/
abbrev Outcome := Host.Outcome State Fault Refusal

end Sys2Proof.Machine
end

