-- ==== Sys2Proof/Machine/Ops.lean ====
section
/-! DEFINITION. The named operations every command is written with: ending a command with a result or
with an error (rule R11), the byte buffers IN and OUT (rules R11, R33, R43), the check of the
configuration (rule R26), and reading the command code. -/

namespace Sys2Proof.Machine

/-! ## Ending a command -/

/-- `complete(r)`: RES takes the result and the block becomes idle (R11). -/
def State.complete (s : State) (r : Result) : State :=
  { s with res := some r, phase := .idle }

/-- `raise E()`: RES takes `err(E)` and the block becomes idle (R11). It is how every error of the
block is taken: nothing is saved, no mode changes and control goes nowhere (R206), so there is no
return from it (R207). -/
def State.raiseError (s : State) (e : ErrorKind) : State :=
  s.complete (.err e)

/-- A command whose code selects no operation completes at once and reads no operand (R71, R202). -/
def illegalCommand (s : State) : Outcome :=
  .next (s.raiseError .illegalCommand)

/-! ## The input buffer -/

/-- `MemRead(addr, n)` on IN: `n` bytes, the first most significant; a read past the end is the model
fault BufferOverrun (R11, R43). -/
def memRead (buf : List Byte) (addr n : Nat) : Except Fault (BitVec (8 * n)) :=
  if addr + n ≤ buf.length then
    .ok (BitVec.ofNat (8 * n) (bigEndian ((buf.drop addr).take n)))
  else .error .bufferOverrun

/-! ## The output buffer -/

/-- OUT while BUILD runs: the bytes written so far with their offsets, offsets strictly rising. An
unlisted offset has no value (R25, R33; log entry 7). -/
abbrev OutBuf := List Host.Cell

/-- OUT before its first write. -/
def OutBuf.empty : OutBuf := []

/-- The canonical form: offsets strictly rising. -/
def OutBuf.wf : OutBuf → Bool
  | [] => true
  | [_] => true
  | (a, _) :: (a', b') :: rest => decide (a < a') && OutBuf.wf ((a', b') :: rest)

/-- Writes one byte, keeping the offsets strictly rising. -/
def OutBuf.set : OutBuf → Nat → Byte → OutBuf
  | [], a, b => [(a, b)]
  | (a', b') :: rest, a, b =>
    if a < a' then (a, b) :: (a', b') :: rest
    else if a = a' then (a, b) :: rest
    else (a', b') :: OutBuf.set rest a b

/-- The byte at an offset, if one was written. -/
def OutBuf.get? : OutBuf → Nat → Option Byte
  | [], _ => none
  | (a', b') :: rest, a => if a = a' then some b' else OutBuf.get? rest a

/-- Writes bytes at rising offsets. -/
def OutBuf.setAll (o : OutBuf) (a : Nat) : List Byte → OutBuf
  | [] => o
  | b :: bs => OutBuf.setAll (o.set a b) (a + 1) bs

/-- `MemWrite(addr, n, v)` on OUT: `n` bytes, most significant first (R11). OUT has offsets 0 to 7
(R33). -/
def memWrite (o : OutBuf) (addr n : Nat) (v : BitVec (8 * n)) : Except Fault OutBuf :=
  if addr + n ≤ Config.requestLen then .ok (o.setAll addr (splitBytes n v))
  else .error .bufferOverrun

/-- Reads one byte of OUT back; a byte that was not written has no value. -/
def outByte (o : OutBuf) (a : Nat) : Except Fault Byte :=
  match o.get? a with
  | some b => .ok b
  | none => .error .bufferOverrun

/-- `OUT[a .. a+n-1]`. -/
def outSlice (o : OutBuf) (a : Nat) : Nat → Except Fault (List Byte)
  | 0 => .ok []
  | n + 1 => do
    let b ← outByte o a
    let bs ← outSlice o (a + 1) n
    .ok (b :: bs)

/-- `frame(OUT[0..7])`. -/
def outFrame (o : OutBuf) : Except Fault Frame := do
  let b0 ← outByte o 0
  let b1 ← outByte o 1
  let b2 ← outByte o 2
  let b3 ← outByte o 3
  let b4 ← outByte o 4
  let b5 ← outByte o 5
  let b6 ← outByte o 6
  let b7 ← outByte o 7
  .ok ⟨b0, b1, b2, b3, b4, b5, b6, b7⟩

/-! ## Frames as bytes -/

/-- Bytes 0 to 5 of a request frame (R66). -/
def Frame.headerBytes (f : Frame) : List Byte :=
  [f.slaveId, f.functionCode, f.addrHi, f.addrLo, f.countHi, f.countLo]

/-- The 8 bytes of a request frame (R66). -/
def Frame.bytes (f : Frame) : List Byte := f.headerBytes ++ [f.crcLo, f.crcHi]

/-! ## Configuration and command code -/

/-- RESP_LEN is legal (R7, R26). -/
def configLegal (respLen : Nat) : Bool := decide (Config.respLenMin ≤ respLen)

/-- What the block does with a started command's code: the operation it selects, or its rejection
(R61, R205: CMD is checked first). -/
def fetch (s : State) : Except DecodeError Instr := decodeCmd s.cmd

/-- The state in which the host has started the command whose code is the low 8 bits of `w`. -/
def State.withCommand (s : State) (w : Nat) : State :=
  { s with cmd := BitVec.ofNat 8 w, phase := .busy }

end Sys2Proof.Machine
end

