-- ==== Sys2Proof/Machine/CrcEngine.lean ====
section
/-! DEFINITION. The CRC Engine (file 40_crc_engine.md): the round, the byte step, the CRC of a byte
sequence and the CRC command. -/

namespace Sys2Proof.Machine

/-- One round: a logical right shift, then the polynomial if the bit shifted out was set (R100). -/
def crcRound (a : Word) : Word :=
  if a.getLsbD 0 then (a >>> 1) ^^^ Config.crcPoly else a >>> 1

/-- The byte step: the byte goes into the low 8 bits, then 8 rounds (R101). -/
def crcStep (a : Word) (b : Byte) : Word :=
  let a0 := a ^^^ zext16 b
  crcRound (crcRound (crcRound (crcRound (crcRound (crcRound (crcRound (crcRound a0)))))))

/-- `CRC16(s)`: from `0xFFFF`, each byte in order; no final XOR (R102). -/
def crc16 (s : List Byte) : Word := s.foldl crcStep Config.crcInit

/-- The loop of the CRC command (R102): `n` more bytes of IN from offset `i`, read one at a time. -/
def crcLoop (buf : List Byte) (i : Nat) : Nat → Word → Except Fault Word
  | 0, acc => .ok acc
  | n + 1, acc =>
    match memRead buf i 1 with
    | .ok b => crcLoop buf (i + 1) n (crcStep acc b)
    | .error f => .error f

/-- The CRC command (R102): `crc(lo = ACC[7:0], hi = ACC[15:8])` of all of IN. -/
def execCrc (s : State) : Outcome :=
  match crcLoop s.input 0 s.input.length Config.crcInit with
  | .ok acc => .next (s.complete (.crc (lo8 acc) (hi8 acc)))
  | .error f => .fault f

end Sys2Proof.Machine
end

