-- ==== Sys2Proof/Machine/FrameBuilder.lean ====
section
/-! DEFINITION. The Frame Builder (file 41_frame_builder.md): BUILD, written as the pseudocode of rule
R120 writes it. -/

namespace Sys2Proof.Machine

/-- The eight writes of BUILD and the frame they leave in OUT (R120). Every operand value is accepted
(R121). -/
def buildFrame (sid fc : Byte) (addr qty : Word) : Except Fault Frame := do
  let o ← memWrite OutBuf.empty 0 1 sid
  let o ← memWrite o 1 1 fc
  let o ← memWrite o 2 1 (hi8 addr)
  let o ← memWrite o 3 1 (lo8 addr)
  let o ← memWrite o 4 1 (hi8 qty)
  let o ← memWrite o 5 1 (lo8 qty)
  let header ← outSlice o 0 6
  let c := crc16 header
  let o ← memWrite o 6 1 (lo8 c)
  let o ← memWrite o 7 1 (hi8 c)
  outFrame o

/-- BUILD (R120): reads SID, FC, ADDR and QTY, and leaves the frame in RES. -/
def execBuild (s : State) : Outcome :=
  match buildFrame s.sid s.fc s.addr s.qty with
  | .ok f => .next (s.complete (.frame f))
  | .error f => .fault f

end Sys2Proof.Machine
end

