-- ==== Sys2Proof/Machine/ResponseDecoder.lean ====
section
/-! DEFINITION. The Response Decoder (file 42_response_decoder.md): DECODE, written as the pseudocode of
rule R140 writes it. -/

namespace Sys2Proof.Machine

/-- The trailer, read low byte first: `zext_16(IN[n-1]) << 8 | zext_16(IN[n-2])` (R68, R142). -/
def receivedCrc (buf : List Byte) : Except Fault Word := do
  let hi ← memRead buf (buf.length - 1) 1
  let lo ← memRead buf (buf.length - 2) 1
  .ok (joinWord hi lo)

/-- The bytes the CRC is computed over: all but the last two, `IN[0 .. n-3]` (R140). -/
def crcCovered (buf : List Byte) : List Byte := slice buf 0 (buf.length - 3)

/-- The payload: every byte between the header and the trailer, `IN[3 .. n-3]` (R143). -/
def payload (buf : List Byte) : List Byte := slice buf Config.headerLen (buf.length - 3)

/-- DECODE (R140): the length, the CRC and the payload are checked in this order and the first check
that fails is the one reported (R144). The header is not checked (R146). A configuration below 5 is
refused before anything is read (R26). -/
def execDecode (s : State) : Outcome :=
  if configLegal s.respLen = false then .fault .configRefused
  else if s.input.length ≠ s.respLen then .next (s.raiseError .incompleteFrame)
  else
    match receivedCrc s.input with
    | .error f => .fault f
    | .ok r =>
      if crc16 (crcCovered s.input) ≠ r then .next (s.raiseError .checksumMismatch)
      else if (payload s.input).length ≠ Config.payloadLen then
        .next (s.raiseError .malformedPayload)
      else
        match memRead s.input Config.headerLen 4 with
        | .ok w => .next (s.complete (.value w))
        | .error f => .fault f

end Sys2Proof.Machine
end

