-- ==== Sys2Proof/Machine/Dispatch.lean ====
section
/-! DEFINITION. The meaning of each instruction, one arm per constructor of `Instr`. -/

namespace Sys2Proof.Machine

open Sys2Proof

def exec (i : Instr) (s : State) : Host.Outcome State Fault Refusal :=
  match i with
  | .crc => Sys2Proof.Machine.execCrc s
  | .build => Sys2Proof.Machine.execBuild s
  | .decode => Sys2Proof.Machine.execDecode s

end Sys2Proof.Machine
end

