-- ==== Sys2Proof/Machine/Block.lean ====
section
/-! DEFINITION. What one step of the block does around the meaning of its command (rules R26, R31, R202,
R205, R231). -/

namespace Sys2Proof.Machine

open Sys2Proof

/-- A started command runs to completion in one step (R31). Its code is looked at first (R205); a code
that selects no operation completes with `err(illegalCommand)` (R202). -/
def runStarted (s : State) : Outcome :=
  match fetch s with
  | .ok i => exec i s
  | .error (.illegalCommand _) => illegalCommand s

/-- One step. No state with RESP_LEN below 5 runs (R26). An idle block waits for a command and
nothing changes (R231; log entry 2). -/
def blockStep (s : State) : Outcome :=
  if configLegal s.respLen = false then .fault .configRefused
  else
    match s.phase with
    | .idle => .next s
    | .busy => runStarted s

end Sys2Proof.Machine
end

