-- ==== Sys2Proof/Machine/Step.lean ====
section
/-! DEFINITION. The block's step, under the host's names. -/

namespace Sys2Proof.Machine

open Sys2Proof

/-- One step of the block: a command and its completion are one atomic step (R31). -/
def step (s : State) : Host.Outcome State Fault Refusal := blockStep s

/-- `s` with the command whose code is `w` started, so that the next step runs it. The block fetches
no stored program (R21): this stands for the host's write of CMD and its start (log entry 6). An
instruction is 8 bits wide whatever `nbits` says (log entry 23). -/
def State.withFetchWord (s : State) (_nbits w : Nat) : State := s.withCommand w

end Sys2Proof.Machine
end

