-- ==== Sys2Proof/Machine/Binary32.lean ====
section
/-! DEFINITION. How a consumer reads the 32 bits of a decoded value as a number: the table of rule R145,
which the spec takes from the IEEE 754 binary32 format (PRESUMED, log entry 18). The block returns
the bits only. -/

namespace Sys2Proof.Machine

/-- The five lines of the table of R145, with the sign, exponent and fraction fields. -/
inductive Reading where
  | zero (neg : Bool)
  | subnormal (neg : Bool) (f : Nat)
  | normal (neg : Bool) (e f : Nat)
  | infinity (neg : Bool)
  | nan (quiet : Bool)
  deriving DecidableEq, Repr

/-- The sign bit `w[31]`. -/
def signBit (w : Bits32) : Bool := w.getLsbD 31

/-- The exponent field `w[30:23]`. -/
def exponentField (w : Bits32) : Nat := (w.extractLsb' 23 8).toNat

/-- The fraction field `w[22:0]`. -/
def fractionField (w : Bits32) : Nat := (w.extractLsb' 0 23).toNat

/-- The reading of R145. -/
def readBinary32 (w : Bits32) : Reading :=
  let neg := signBit w
  let e := exponentField w
  let f := fractionField w
  if e = 0 then if f = 0 then .zero neg else .subnormal neg f
  else if e = 255 then if f = 0 then .infinity neg else .nan (w.getLsbD 22)
  else .normal neg e f

/-- `(-1)^s`. -/
def signValue (neg : Bool) : ℚ := if neg then -1 else 1

/-- The number a finite pattern stands for; infinities and NaNs stand for none (R145). -/
def readingValue : Reading → Option ℚ
  | .zero _ => some 0
  | .subnormal neg f => some (signValue neg * ((f : ℚ) / 2 ^ 149))
  | .normal neg e f => some (signValue neg * ((2 ^ e : ℚ) / 2 ^ 127) * (1 + (f : ℚ) / 2 ^ 23))
  | .infinity _ => none
  | .nan _ => none

end Sys2Proof.Machine
end

