-- ==== Sys2Proof/Machine/Instances.lean ====
section
/-! DEFINITION. Several blocks side by side (rules R9, R211): each has its own state and nothing is
shared. -/

namespace Sys2Proof.Machine

/-- Instance `k` takes one step; the others do not move (R9). An index with no instance moves
nothing. -/
def stepInstance (k : Nat) (blocks : List State) : Host.Outcome (List State) Fault Refusal :=
  match blocks[k]? with
  | none => .next blocks
  | some s =>
    match step s with
    | .next t => .next (blocks.set k t)
    | .fault f => .fault f
    | .refused r => .refused r

end Sys2Proof.Machine
end

