-- ==== Sys2Proof/Machine/Flags.lean ====
section
/-! DEFINITION. STATUS, the block's one status value: a read-only view of RES (rule R27) with the codes
of rule R200. There is no other flag. -/

namespace Sys2Proof.Machine

/-- The code of OK (R200). -/
def statusOk : Byte := 0x00

/-- The code of an error (R200). -/
def ErrorKind.code : ErrorKind → Byte
  | .incompleteFrame => 0x01
  | .checksumMismatch => 0x02
  | .malformedPayload => 0x03
  | .illegalCommand => 0xFF

/-- STATUS for a result: OK for `crc`, `frame` and `value`, the error's code for `err` (R27). -/
def Result.status : Result → Byte
  | .crc _ _ => statusOk
  | .frame _ => statusOk
  | .value _ => statusOk
  | .err e => e.code

/-- Reading RES: the result, or the model fault ResultUnwritten, which R24 and R203 state for a read while
it holds no value: "A model must not read it as zero." It has no side effect (R45). -/
def readRes (s : State) : Except Fault Result :=
  match s.res with
  | some r => .ok r
  | none => .error .resultUnwritten

/-- Reading STATUS, with the same fault (R27). -/
def readStatus (s : State) : Except Fault Byte :=
  match readRes s with
  | .ok r => .ok r.status
  | .error f => .error f

end Sys2Proof.Machine
end

