-- ==== Sys2Proof/Machine/Ports.lean ====
section
/-! DEFINITION. The host's moves on one block: setting it up (rules R26, R232), asserting reset (rule
R230), writing the port registers and starting a command (rules R22, R31, R240), and running a
written command (rule R73). Reading RES and STATUS is in Machine/Flags.lean. -/

namespace Sys2Proof.Machine

open Sys2Proof

/-- Setting RESP_LEN and releasing reset (R232). A value below 5 is refused as a configuration (R26).
There is no other move that sets RESP_LEN: changing it later has no move (R184 d). -/
def boot (respLen : Nat) : Outcome :=
  if configLegal respLen then .next { State.reset with respLen := respLen }
  else .fault .configRefused

/-- Asserting and releasing reset between two steps: every field takes its reset value except
RESP_LEN, which reset does not change (R230). A command that was started and not yet run is
abandoned without a result. -/
def resetBlock (s : State) : State := { State.reset with respLen := s.respLen }

/-- One write to a port register, as wide as the register (R22, R70). -/
inductive PortWrite where
  | cmd (v : Byte)
  | sid (v : Byte)
  | fc (v : Byte)
  | addr (v : Word)
  | qty (v : Word)
  | input (v : List Byte)
  deriving DecidableEq, Repr

/-- The register takes the value; no other state changes. -/
def State.put (s : State) : PortWrite → State
  | .cmd v => { s with cmd := v }
  | .sid v => { s with sid := v }
  | .fc v => { s with fc := v }
  | .addr v => { s with addr := v }
  | .qty v => { s with qty := v }
  | .input v => { s with input := v }

/-- The host writes a port register. While a command runs there is no such move (R240, R184 a). -/
def writePort (p : PortWrite) (s : State) : Outcome :=
  match s.phase with
  | .idle => .next (s.put p)
  | .busy => .refused .portBusy

/-- The host starts the command in CMD. It is accepted only when the block is idle (R31). -/
def start (s : State) : Outcome :=
  match s.phase with
  | .idle => .next { s with phase := .busy }
  | .busy => .refused .portBusy

/-- The code written to CMD for a written command (R73). -/
def commandCode : Command → Byte
  | .crc _ => encode .crc
  | .build _ _ _ _ => encode .build
  | .decode _ => encode .decode
  | .illegal code => BitVec.ofNat 8 code

/-- The operand writes of a written command: the registers it reads and no others (R62 to R64, R71). -/
def operandWrites : Command → List PortWrite
  | .crc data => [.input (data.map (BitVec.ofNat 8))]
  | .build sid fc addr qty =>
    [.sid (BitVec.ofNat 8 sid), .fc (BitVec.ofNat 8 fc),
      .addr (BitVec.ofNat 16 addr), .qty (BitVec.ofNat 16 qty)]
  | .decode raw => [.input (raw.map (BitVec.ofNat 8))]
  | .illegal _ => []

/-- The host writes the operand registers, then CMD, and starts the operation (R22, R232). An operand
wider than its register cannot be presented (R70). -/
def issue (c : Command) (s : State) : Outcome :=
  if c.wellFormed = false then .refused .operandRange
  else
    match s.phase with
    | .idle =>
      .next { ((operandWrites c).foldl State.put s).put (.cmd (commandCode c)) with phase := .busy }
    | .busy => .refused .portBusy

/-- A written command issued and run: one line of a program (R73). -/
def runCommand (c : Command) (s : State) : Outcome :=
  match issue c s with
  | .next t => step t
  | .fault f => .fault f
  | .refused r => .refused r

end Sys2Proof.Machine
end

