-- ==== Sys2Proof/Machine/Poll.lean ====
section
/-! DEFINITION. The host profile (file 48_host_sequence.md): the Poll Sequencer and its transport, as a
model of one particular host around one block. It is outside the block and none of its steps is a
step of the block (rule R5); it reaches the block only through `runCommand` and `readRes`. -/

namespace Sys2Proof.Machine

open Sys2Proof

/-- The eight quantities of the register map (R170). -/
inductive Quantity where
  | voltage
  | current
  | activePower
  | apparentPower
  | reactivePower
  | powerFactor
  | frequency
  | totalActiveEnergy
  deriving DecidableEq, Repr

/-- The start address of each quantity (R170). -/
def Quantity.address : Quantity → Word
  | .voltage => 0x0000
  | .current => 0x0006
  | .activePower => 0x000C
  | .apparentPower => 0x0012
  | .reactivePower => 0x0018
  | .powerFactor => 0x001E
  | .frequency => 0x0046
  | .totalActiveEnergy => 0x0156

/-- The poll order, the order of the table (R172). -/
def pollOrder : List Quantity :=
  [.voltage, .current, .activePower, .apparentPower, .reactivePower, .powerFactor, .frequency,
    .totalActiveEnergy]

/-- The quantity polled next, or none after the last (R176). -/
def Quantity.next? : Quantity → Option Quantity
  | .voltage => some .current
  | .current => some .activePower
  | .activePower => some .apparentPower
  | .apparentPower => some .reactivePower
  | .reactivePower => some .powerFactor
  | .powerFactor => some .frequency
  | .frequency => some .totalActiveEnergy
  | .totalActiveEnergy => none

/-- A Decoded Measurement: the bits of a value, or the marker `unavailable` (R15, R177). -/
inductive Measurement where
  | value (bits : Bits32)
  | unavailable
  deriving DecidableEq, Repr

/-- A Poll Result Set, in the order of insertion (R15, R177). -/
abbrev ResultSet := List (Quantity × Measurement)

/-- Where the cycle stands: the six actions of one exchange (R173), idle, or ended by a transport
fault (R179). -/
inductive PollPos where
  | idle
  /-- Action 1: BUILD. -/
  | build (q : Quantity)
  /-- Action 2: write the frame to the transport. -/
  | write (q : Quantity) (f : Frame)
  /-- Action 3: wait the settle interval. -/
  | wait (q : Quantity)
  /-- Action 4: read the transport once. -/
  | read (q : Quantity)
  /-- Action 5: DECODE what was read. -/
  | decode (q : Quantity) (raw : List Byte)
  /-- Action 6: record the result. -/
  | record (q : Quantity)
  /-- The cycle ended on a transport fault, with no result set (R179; log entry 15). -/
  | aborted
  deriving DecidableEq, Repr

/-- The states of the cycle machine of R176. -/
inductive CycleState where
  | idle
  | requesting (q : Quantity)
  | awaitingResponse (q : Quantity)
  | decoding (q : Quantity)
  deriving DecidableEq, Repr

/-- Which actions each state of R176 covers. A cycle that has ended leaves the machine idle. -/
def PollPos.cycleState : PollPos → CycleState
  | .idle => .idle
  | .build q => .requesting q
  | .write q _ => .requesting q
  | .wait q => .awaitingResponse q
  | .read q => .awaitingResponse q
  | .decode q _ => .decoding q
  | .record q => .decoding q
  | .aborted => .idle

/-- The host and its block. -/
structure PollState where
  block : State
  /-- `SLAVE_ID`, one value per cycle (R171). -/
  slaveId : Byte
  /-- `SETTLE_MS`; no rule reads it (R175). -/
  settleMs : Nat
  pos : PollPos
  /-- The frames written to the transport in this cycle. -/
  sent : List Frame
  /-- The Poll Result Set being built (R177). -/
  results : ResultSet
  /-- The result set handed to the publish sink at the end of the cycle (R176, R182). -/
  handed : Option ResultSet
  deriving DecidableEq, Repr

/-- What the transport answers in one step: an input of the host model, under no law (R174). A write
looks at `writeOk`, a read at the other two; the other steps look at nothing. -/
structure Draw where
  writeOk : Bool
  readOk : Bool
  raw : List Byte
  deriving DecidableEq, Repr

/-- The outcome of a step of the host model. -/
abbrev PollOutcome := Host.Outcome PollState Fault Refusal

/-- `transport.read(max)`: at most `max` bytes, possibly none; nothing when the call fails (R174,
R179). Every sequence of at most `max` bytes is the answer of some draw. -/
def transportRead (max : Nat) (d : Draw) : Option (List Byte) :=
  if d.readOk then some (d.raw.take max) else none

/-- A host about to poll, on a block as given. -/
def PollState.ready (block : State) (slaveId : Byte) : PollState where
  block := block
  slaveId := slaveId
  settleMs := Config.settleMsDefault
  pos := .idle
  sent := []
  results := []
  handed := none

/-- A cycle that has ended, with or without a result set, can be followed by another. -/
def PollPos.between : PollPos → Bool
  | .idle => true
  | .aborted => true
  | _ => false

/-- `poll_all(slave_id)`: the outer loop starts a cycle with a fresh, empty result set (R176, R177).
While a cycle runs there is no such move: one exchange at a time (R181). -/
def pollAll (slaveId : Byte) (h : PollState) : PollOutcome :=
  if h.pos.between then
    .next { h with
      slaveId := slaveId, pos := .build .voltage, sent := [], results := [], handed := none }
  else .refused .cycleRunning

/-- A transport fault ends the cycle at once, with no result set handed on (R179). -/
def PollState.abort (h : PollState) : PollState :=
  { h with pos := .aborted, results := [] }

/-- What is recorded for a DECODE result: the value's bits, or `unavailable` for every error (R177,
conflict C7). -/
def measurementOf : Result → Option Measurement
  | .value bits => some (.value bits)
  | .err _ => some .unavailable
  | .crc _ _ => none
  | .frame _ => none

/-- Action 6: the measurement is inserted under the quantity's name, and the cycle goes on to the next
quantity, whatever the result was (R178). After the last one the set is handed on and the host is
idle again (R176, R177). -/
def PollState.record (h : PollState) (q : Quantity) (m : Measurement) : PollState :=
  match q.next? with
  | some q' => { h with pos := .build q', results := h.results ++ [(q, m)] }
  | none => { h with pos := .idle, results := [], handed := some (h.results ++ [(q, m)]) }

/-- Action 1: BUILD with the fixed function code and register count (R171); the frame is taken from
RES (R241). -/
def pollBuild (h : PollState) (q : Quantity) : PollOutcome :=
  match runCommand (readReq h.slaveId.toNat q.address.toNat) h.block with
  | .next b =>
    match readRes b with
    | .ok (.frame f) => .next { h with block := b, pos := .write q f }
    | .ok _ => .refused .unexpectedResult
    | .error e => .fault e
  | .fault e => .fault e
  | .refused r => .refused r

/-- Action 2 (R173, R179). -/
def pollWrite (d : Draw) (h : PollState) (q : Quantity) (f : Frame) : PollState :=
  if d.writeOk then { h with pos := .wait q, sent := h.sent ++ [f] } else h.abort

/-- Action 4: one read of at most RESP_LEN bytes (R173, R175). -/
def pollRead (d : Draw) (h : PollState) (q : Quantity) : PollState :=
  match transportRead h.block.respLen d with
  | some raw => { h with pos := .decode q raw }
  | none => h.abort

/-- Action 5 (R173). -/
def pollDecode (h : PollState) (q : Quantity) (raw : List Byte) : PollOutcome :=
  match runCommand (.decode (raw.map BitVec.toNat)) h.block with
  | .next b => .next { h with block := b, pos := .record q }
  | .fault e => .fault e
  | .refused r => .refused r

/-- Action 6 (R173). -/
def pollRecord (h : PollState) (q : Quantity) : PollOutcome :=
  match readRes h.block with
  | .ok r =>
    match measurementOf r with
    | some m => .next (h.record q m)
    | none => .refused .unexpectedResult
  | .error e => .fault e

/-- One step of the host model (R173 to R180). A host between cycles waits for the outer loop, which
is not modelled (R183). -/
def pollStep (d : Draw) (h : PollState) : PollOutcome :=
  match h.pos with
  | .idle => .next h
  | .build q => pollBuild h q
  | .write q f => .next (pollWrite d h q f)
  | .wait q => .next { h with pos := .read q }
  | .read q => .next (pollRead d h q)
  | .decode q raw => pollDecode h q raw
  | .record q => pollRecord h q
  | .aborted => .next h

/-- The host model run on a sequence of transport answers, stopping at a fault or a refusal. -/
def pollRun : List Draw → PollState → PollOutcome
  | [], h => .next h
  | d :: ds, h =>
    match pollStep d h with
    | .next h' => pollRun ds h'
    | .fault f => .fault f
    | .refused r => .refused r

end Sys2Proof.Machine
end

