-- ==== Sys2Proof/Machine/Bus.lean ====
section
/-! DEFINITION. Several pollers on one transport (rules R181, R51, R211): the polls of several slaves or
of several block instances are serialised. A poller is a host model with its own block; the pollers
share the transport and nothing else (R9). No step here is a step of the block (R5). -/

namespace Sys2Proof.Machine

open Sys2Proof

/-- What can be seen on the shared transport, with the place of the poller it belongs to. -/
inductive BusEvent where
  /-- A request was written: an exchange begins (R173, action 2). -/
  | request (poller : Nat) (f : Frame)
  /-- The one read of the exchange returned: the exchange ends (R173, action 4). -/
  | response (poller : Nat) (raw : List Byte)
  /-- The one read of the exchange failed: the exchange ends (R179). -/
  | readFailed (poller : Nat)
  deriving DecidableEq, Repr

/-- The pollers of one transport. -/
structure BusState where
  /-- Each with its own block (R9, R211). -/
  pollers : List PollState
  /-- The place of the poller whose poll is running, if one is (R181). -/
  holder : Option Nat
  /-- What went over the transport, oldest first: an observation, read by no step. -/
  traffic : List BusEvent
  deriving DecidableEq, Repr

/-- The outcome of a step of the shared transport. -/
abbrev BusOutcome := Host.Outcome BusState Fault Refusal

/-- A transport on which no poll has run. -/
def BusState.ready (pollers : List PollState) : BusState where
  pollers := pollers
  holder := none
  traffic := []

/-- What a poller's step puts on the transport: a successful write and the one read (R173, R174). -/
def busTraffic (d : Draw) (k : Nat) (h : PollState) : List BusEvent :=
  match h.pos with
  | .write _ f => if d.writeOk then [.request k f] else []
  | .read _ =>
    match transportRead h.block.respLen d with
    | some raw => [.response k raw]
    | none => [.readFailed k]
  | .idle => []
  | .build _ => []
  | .wait _ => []
  | .decode _ _ => []
  | .record _ => []
  | .aborted => []

/-- The poller at place `k` has moved. It holds the transport until its poll has ended (R181). -/
def BusState.moved (b : BusState) (k : Nat) (h : PollState) (events : List BusEvent) : BusState where
  pollers := b.pollers.set k h
  holder := if h.pos.between then none else some k
  traffic := b.traffic ++ events

/-- The move or step of the poller at place `k`, taken within the bus. -/
def BusState.after (b : BusState) (k : Nat) (events : List BusEvent) : PollOutcome → BusOutcome
  | .next h => .next (b.moved k h events)
  | .fault f => .fault f
  | .refused r => .refused r

/-- The outer loop starts a poll of a slave by the poller at place `k`. There is no such move while the
poll of any poller runs: polls are serialised, not interleaved (R181). A place with no poller starts
nothing (log entry 25). -/
def busPollAll (k : Nat) (slaveId : Byte) (b : BusState) : BusOutcome :=
  match b.holder with
  | some _ => .refused .cycleRunning
  | none =>
    match b.pollers[k]? with
    | some h => b.after k [] (pollAll slaveId h)
    | none => .next b

/-- One step: only the poller that holds the transport moves (R181). With no poll running the bus waits
for the outer loop (R183). -/
def busStep (d : Draw) (b : BusState) : BusOutcome :=
  match b.holder with
  | some k =>
    match b.pollers[k]? with
    | some h => b.after k (busTraffic d k h) (pollStep d h)
    | none => .next b
  | none => .next b

/-- The bus run on a sequence of transport answers, stopping at a fault or a refusal. -/
def busRun : List Draw → BusState → BusOutcome
  | [], b => .next b
  | d :: ds, b =>
    match busStep d b with
    | .next b' => busRun ds b'
    | .fault f => .fault f
    | .refused r => .refused r

end Sys2Proof.Machine
end

