-- ==== Sys2Proof/Safety.lean ====
section
/-! DEFINITION. What counts as a good state, in the terms the statements use: the invariant of the
block, the registers a command reads, what a command leaves unchanged, and the invariants of the host
model and of several pollers on one transport. -/

namespace Sys2Proof.Machine

open Sys2Proof

/-- What a held result says under a configuration: a frame carries its own CRC (R104); a value was
decoded under a RESP_LEN that leaves 4 payload bytes, and MalformedPayload under one that does not
(R143). -/
def resultSound (respLen : Nat) : Option Result → Bool
  | none => true
  | some (.crc _ _) => true
  | some (.frame f) => decide (crc16 f.headerBytes = joinWord f.crcHi f.crcLo)
  | some (.value _) => decide (respLen = 9)
  | some (.err .malformedPayload) => decide (respLen ≠ 9)
  | some (.err .incompleteFrame) => true
  | some (.err .checksumMismatch) => true
  | some (.err .illegalCommand) => true

/-- The invariant of the block: its configuration is legal (R26) and what RES holds is sound. -/
def State.inv (s : State) : Bool := configLegal s.respLen && resultSound s.respLen s.res

/-- The host's port registers and the configuration are as they were (R22, R26). -/
def portsKept (s t : State) : Prop :=
  t.cmd = s.cmd ∧ t.sid = s.sid ∧ t.fc = s.fc ∧ t.addr = s.addr ∧ t.qty = s.qty ∧
    t.input = s.input ∧ t.respLen = s.respLen

/-- The two states agree on the operands the instruction reads (R62 to R64) and on nothing else. -/
def sameOperands : Instr → State → State → Prop
  | .crc, s, t => s.input = t.input
  | .build, s, t => s.sid = t.sid ∧ s.fc = t.fc ∧ s.addr = t.addr ∧ s.qty = t.qty
  | .decode, s, t => s.input = t.input ∧ s.respLen = t.respLen

/-- Some bit of one byte of a sequence flipped: bit `j` of byte `i`. -/
def flipBit (s : List Byte) (i j : Nat) : List Byte :=
  s.modify i fun b => b ^^^ BitVec.ofNat 8 (2 ^ j)

/-! ## The host model -/

/-- The request for a quantity, byte by byte (R66, R171). -/
def requestFor (slaveId : Byte) (q : Quantity) : Frame :=
  let header : List Byte := [slaveId, 0x04, hi8 q.address, lo8 q.address, 0x00, 0x02]
  ⟨slaveId, 0x04, hi8 q.address, lo8 q.address, 0x00, 0x02, lo8 (crc16 header), hi8 (crc16 header)⟩

/-- The quantities polled before one in the cycle (R172). -/
def Quantity.before (q : Quantity) : List Quantity := pollOrder.takeWhile fun p => p ≠ q

/-- RES holds what a DECODE leaves: a value or an error. -/
def holdsDecoded (s : State) : Bool :=
  match s.res with
  | some r => (measurementOf r).isSome
  | none => false

/-- In a running cycle at quantity `q`: the results recorded so far are those of the quantities before
`q`, `requested` were requested, and nothing has been handed on. -/
def PollState.running (h : PollState) (q : Quantity) (requested : List Quantity) : Prop :=
  h.results.map Prod.fst = q.before ∧ h.sent = requested.map (requestFor h.slaveId) ∧
    h.handed = none

/-- The invariant of the host model (R173 to R179): the block is idle between its commands and meets
its own invariant; requests and results follow the register map in order; what was handed on holds
all eight names. -/
def PollState.inv (h : PollState) : Prop :=
  h.block.inv = true ∧ h.block.phase = .idle ∧
  match h.pos with
  | .idle =>
    h.results = [] ∧
      ((h.handed = none ∧ h.sent = []) ∨
        (h.handed.map (List.map Prod.fst) = some pollOrder ∧
          h.sent = pollOrder.map (requestFor h.slaveId)))
  | .build q => h.running q q.before
  | .write q f => h.running q q.before ∧ f = requestFor h.slaveId q
  | .wait q => h.running q (q.before ++ [q])
  | .read q => h.running q (q.before ++ [q])
  | .decode q raw => h.running q (q.before ++ [q]) ∧ raw.length ≤ h.block.respLen
  | .record q => h.running q (q.before ++ [q]) ∧ holdsDecoded h.block = true
  | .aborted => h.results = [] ∧ h.handed = none

/-- What a cycle records for a read of `raw` under a configuration (R140, R177), said without the
host: the measurement for what DECODE leaves in RES. -/
def measurementFor (respLen : Nat) (raw : List Byte) : Option Measurement :=
  match exec .decode { State.reset with respLen := respLen, input := raw } with
  | .next t => t.res.bind measurementOf
  | .fault _ => none
  | .refused _ => none

/-! ## Several pollers on one transport -/

/-- What an event does to the exchange in flight, or `none` where it would overlap another exchange or
answer one that is not its own (R181). -/
def exchangeAfter : Option Nat → BusEvent → Option (Option Nat)
  | none, .request k _ => some (some k)
  | none, .response _ _ => none
  | none, .readFailed _ => none
  | some _, .request _ _ => none
  | some k, .response j _ => if j = k then some none else none
  | some k, .readFailed j => if j = k then some none else none

/-- The poller whose exchange is in flight at the end of a traffic, if one is; `none` for a traffic in
which two exchanges overlap (R181). -/
def inFlightAfter (traffic : List BusEvent) : Option (Option Nat) := traffic.foldlM exchangeAfter none

/-- The poller whose exchange is in flight: the one that holds the transport, while it awaits its
response (R176). -/
def BusState.inFlight (b : BusState) : Option Nat :=
  match b.holder with
  | none => none
  | some k =>
    match b.pollers[k]? with
    | none => none
    | some h =>
      match h.pos.cycleState with
      | .idle => none
      | .requesting _ => none
      | .awaitingResponse _ => some k
      | .decoding _ => none

/-- What the poller at place `k` goes on must be the last that went over the transport: its own request
while it awaits the response, and the bytes of its own read when it decodes (R173, R184 c). -/
def lastIsItsOwn (traffic : List BusEvent) (k : Nat) (h : PollState) : Prop :=
  match h.pos with
  | .idle => True
  | .build _ => True
  | .write _ _ => True
  | .wait q => traffic.getLast? = some (.request k (requestFor h.slaveId q))
  | .read q => traffic.getLast? = some (.request k (requestFor h.slaveId q))
  | .decode _ raw => traffic.getLast? = some (.response k raw)
  | .record _ => True
  | .aborted => True

/-- The invariant of several pollers on one transport (R181): each meets its own invariant; the one that
holds the transport exists, and it is the one and only poller whose poll is running; no two exchanges
overlapped on the transport; and what a poller goes on is its own. -/
def BusState.inv (b : BusState) : Prop :=
  (∀ h ∈ b.pollers, h.inv) ∧
  (∀ k, b.holder = some k → k < b.pollers.length) ∧
  (∀ k h, b.pollers[k]? = some h → (h.pos.between = false ↔ b.holder = some k)) ∧
  inFlightAfter b.traffic = some b.inFlight ∧
  ∀ k h, b.pollers[k]? = some h → lastIsItsOwn b.traffic k h

/-- The requests that went over the transport, each with its poller. -/
def requestsOf (traffic : List BusEvent) : List (Nat × Frame) :=
  traffic.filterMap fun e =>
    match e with
    | .request k f => some (k, f)
    | .response _ _ => none
    | .readFailed _ => none

end Sys2Proof.Machine
end

