-- ==== Sys2Proof/Certificates/Slice0/Obligations.lean ====
section
/-! DEFINITION. The statements for the provers, taken from the numbered rules of spec/. -/

section

open Sys2Proof Sys2Proof.Machine

/-! ## Decoding, stepping, configuration -/

/-- R61: the code alone selects the operation, by the table of the rule, and no other code selects
one. -/
def Obligations.CommandCodeSelectsOperation : Prop :=
  (decodeCmd 0x01 = .ok .crc ∧ decodeCmd 0x02 = .ok .build ∧ decodeCmd 0x03 = .ok .decode) ∧
  (∀ (c : Byte) (i : Instr), decodeCmd c = .ok i ↔ encode i = c) ∧
  (∀ c : Byte, c ≠ 0x01 → c ≠ 0x02 → c ≠ 0x03 → decodeCmd c = .error (.illegalCommand c))

/-- A few words written out from the spec: the table's codes (R61), three illegal codes (V-X1 to V-X3)
and the two listing examples of R65. -/
def Obligations.SpecWordsDecode : Prop :=
  decodeTableWord 8 0b00000001 = some .crc ∧
  decodeTableWord 8 0b00000010 = some .build ∧
  decodeTableWord 8 0b00000011 = some .decode ∧
  decodeTableWord 8 0x00 = none ∧ decodeTableWord 8 0x04 = none ∧ decodeTableWord 8 0xFF = none ∧
  decodeListing [.byte 0x02, .bar, .byte 0x01, .byte 0x04, .byte 0x00, .byte 0x00, .byte 0x00,
    .byte 0x02] = .ok (.build 0x01 0x04 0x0000 0x0002) ∧
  decodeListing [.byte 0x01, .bar, .count 0] = .ok (.crc [])

/-- When the code in CMD selects a well-formed operation and the host has started it, the step is that
operation's meaning and nothing around it (R31, R61). -/
def Obligations.StepRunsTheStartedCommand : Prop :=
  ∀ (s : State) (i : Instr), 5 ≤ s.respLen → s.phase = .busy → decodeCmd s.cmd = .ok i →
    i.wellFormed = true → step s = exec i s

/-- The model's choice (log entry 2): a step of an idle block waits. -/
def Obligations.IdleBlockWaits : Prop :=
  ∀ s : State, 5 ≤ s.respLen → s.phase = .idle → step s = .next s

/-- R202: a started command whose code selects no operation completes with `err(illegalCommand)`, and
nothing else changes; STATUS reads `0xFF`. -/
def Obligations.IllegalCodeCompletesWithError : Prop :=
  ∀ s : State, 5 ≤ s.respLen → s.phase = .busy →
    s.cmd ≠ 0x01 → s.cmd ≠ 0x02 → s.cmd ≠ 0x03 →
    ∃ t, step s = .next t ∧
      t = { s with res := some (.err .illegalCommand), phase := .idle } ∧
      readStatus t = .ok 0xFF

/-- R7, R26: `boot` takes every RESP_LEN of at least 5 and refuses the others; 9 is this hardware. In a
state with a refused value no step and no DECODE runs. -/
def Obligations.ConfigurationBelowFiveIsRefused : Prop :=
  (∀ n : Nat, 5 ≤ n → boot n = .next { State.reset with respLen := n }) ∧
  (∀ n : Nat, n < 5 → boot n = .fault .configRefused) ∧
  boot 9 = .next State.reset ∧
  (∀ s : State, s.respLen < 5 →
    step s = .fault .configRefused ∧ exec .decode s = .fault .configRefused)

/-- R230: reset leaves RES without a value and the block idle and keeps RESP_LEN, in whatever phase it
comes; reading RES or STATUS then is the model fault. -/
def Obligations.ResetEmptiesResAndKeepsRespLen : Prop :=
  (State.reset.res = none ∧ State.reset.phase = .idle ∧ State.reset.respLen = 9) ∧
  ∀ s : State, (resetBlock s).res = none ∧ (resetBlock s).phase = .idle ∧
    (resetBlock s).respLen = s.respLen ∧
    readRes (resetBlock s) = .error .resultUnwritten ∧
    readStatus (resetBlock s) = .error .resultUnwritten

/-- R24, R27, R200: RES and STATUS read as the model fault while RES holds no value; otherwise RES reads
as its result and STATUS as the code of the table. -/
def Obligations.StatusIsAViewOfRes : Prop :=
  (∀ s : State, s.res = none →
    readRes s = .error .resultUnwritten ∧ readStatus s = .error .resultUnwritten) ∧
  (∀ (s : State) (r : Result), s.res = some r → readRes s = .ok r ∧
    readStatus s = .ok (match r with
      | .crc _ _ => 0x00
      | .frame _ => 0x00
      | .value _ => 0x00
      | .err .incompleteFrame => 0x01
      | .err .checksumMismatch => 0x02
      | .err .malformedPayload => 0x03
      | .err .illegalCommand => 0xFF))

/-! ## The CRC Engine -/

/-- R100: one round, said on numbers: the low bit is tested before the shift, zeros enter at the top. -/
def Obligations.RoundShiftsAndXors : Prop :=
  ∀ a : Word, (crcRound a).toNat =
    if a.toNat % 2 = 1 then (a.toNat / 2) ^^^ 0xA001 else a.toNat / 2

/-- R101: the byte goes into the low 8 bits, the high 8 bits are not touched by that XOR, and 8 rounds
follow. -/
def Obligations.ByteStepIsEightRounds : Prop :=
  ∀ (a : Word) (b : Byte),
    crcStep a b = Nat.iterate crcRound 8 (a ^^^ b.setWidth 16) ∧
    hi8 (a ^^^ b.setWidth 16) = hi8 a ∧ lo8 (a ^^^ b.setWidth 16) = lo8 a ^^^ b

/-- R102: the CRC command completes in every state. RES takes the low and the high byte of the
accumulator that starts at `0xFFFF` and folds every byte of IN in order; STATUS reads OK and nothing
else changes. -/
def Obligations.CrcCommandResult : Prop :=
  ∀ s : State, ∃ t, exec .crc s = .next t ∧
    t = { s with
      res := some (.crc ((s.input.foldl crcStep 0xFFFF).extractLsb' 0 8)
        ((s.input.foldl crcStep 0xFFFF).extractLsb' 8 8)),
      phase := .idle } ∧
    readStatus t = .ok 0x00

/-- W1, W2, W6 and V-C3: the values the source fixes or the spec derives for four sequences. -/
def Obligations.PublishedCrcVectors : Prop :=
  crc16 [] = 0xFFFF ∧
  crc16 [0x01, 0x04, 0x00, 0x00, 0x00, 0x02] = 0xCB71 ∧
  crc16 [0x31, 0x32, 0x33, 0x34, 0x35, 0x36, 0x37, 0x38, 0x39] = 0x4B37 ∧
  crc16 [0x01, 0x04, 0x04, 0x43, 0xAF, 0x00, 0x00] = 0x21DE

/-- R105 with V-C9: the table is the byte step from zero, and the table-driven engine gives CRC16 for
every input. -/
def Obligations.TableEngineGivesCrc16 : Prop :=
  (∀ b : Byte, crcTableAt b = crcStep 0x0000 b) ∧ ∀ s : List Byte, crcByTable s = crc16 s

/-- R28, R105: the bit-serial engine, started from any content of ACC, i and k, gives CRC16 after 8
rounds per byte. The division into ticks, the end values i = length and k = 0, and the idle ticks past
the end are the model's choice (log entry 8, DESIGN CHOICE): R29 bounds i by n-1 and lets i and k exist
only while the computation runs. -/
def Obligations.SerialEngineGivesCrc16 : Prop :=
  ∀ (s : List Byte) (e : Engine),
    engineCrc s e = crc16 s ∧
    (engineRun s (8 * s.length) (engineStart e)).i = s.length ∧
    (engineRun s (8 * s.length) (engineStart e)).k = 0 ∧
    ∀ n, (engineRun s (8 * s.length + n) (engineStart e)).acc = crc16 s

/-- R104, second part: a sequence followed by two bytes has CRC zero exactly when they are its own CRC,
low byte first. So the residue test and the comparison of R142 agree. -/
def Obligations.ResidueIsZeroExactlyForRightTrailer : Prop :=
  ∀ (s : List Byte) (lo hi : Byte),
    crc16 (s ++ [lo, hi]) = 0x0000 ↔ crc16 s = (hi.setWidth 16 <<< 8) ||| lo.setWidth 16

/-- In a 9-byte response whose trailer is right, flipping any one bit makes DECODE end in
ChecksumMismatch. R103 states it of bytes 0 to 6; of the trailer bytes 7 and 8 it is derived, for every
frame, from the comparison of R142. -/
def Obligations.SingleBitErrorIsDetected : Prop :=
  ∀ (s : State) (body : List Byte) (lo hi : Byte) (i j : Nat),
    s.respLen = 9 → body.length = 7 →
    crc16 body = (hi.setWidth 16 <<< 8) ||| lo.setWidth 16 →
    i < 9 → j < 8 → s.input = flipBit (body ++ [lo, hi]) i j →
    exec .decode s = .next { s with res := some (.err .checksumMismatch), phase := .idle }

/-! ## The Frame Builder -/

/-- R120: BUILD completes in every state. RES takes the frame of the four operands, big-endian address
and quantity, then the CRC of these six bytes, low byte first; STATUS reads OK and nothing else
changes. -/
def Obligations.BuildResult : Prop :=
  ∀ s : State, ∃ t c, exec .build s = .next t ∧
    c = crc16 [s.sid, s.fc, s.addr.extractLsb' 8 8, s.addr.extractLsb' 0 8,
      s.qty.extractLsb' 8 8, s.qty.extractLsb' 0 8] ∧
    t = { s with
      res := some (.frame
        { slaveId := s.sid, functionCode := s.fc,
          addrHi := s.addr.extractLsb' 8 8, addrLo := s.addr.extractLsb' 0 8,
          countHi := s.qty.extractLsb' 8 8, countLo := s.qty.extractLsb' 0 8,
          crcLo := c.extractLsb' 0 8, crcHi := c.extractLsb' 8 8 }),
      phase := .idle } ∧
    readStatus t = .ok 0x00

/-- R104: the frame BUILD leaves is of 8 bytes, its trailer is the CRC of its first six, and the CRC of
all eight is zero. -/
def Obligations.BuiltFrameIsSelfConsistent : Prop :=
  ∀ s : State, ∃ t f, exec .build s = .next t ∧ t.res = some (.frame f) ∧
    f.bytes.length = 8 ∧
    crc16 (f.bytes.take 6) = (f.crcHi.setWidth 16 <<< 8) ||| f.crcLo.setWidth 16 ∧
    crc16 f.bytes = 0x0000

/-- R121, R122: two BUILDs give equal frames exactly when their four operands are equal, whatever the
values: nothing else enters the frame and no bit of an operand is lost. -/
def Obligations.FramesAreEqualExactlyForEqualOperands : Prop :=
  ∀ s s' : State, ∃ t t', exec .build s = .next t ∧ exec .build s' = .next t' ∧
    (t.res = t'.res ↔
      s.sid = s'.sid ∧ s.fc = s'.fc ∧ s.addr = s'.addr ∧ s.qty = s'.qty)

/-- R122: the frame BUILD leaves passes the decoder's CRC comparison. Under RESP_LEN 8 the next check,
of a payload of 3 bytes, is the one that fails. -/
def Obligations.BuiltFramePassesTheDecodersCrcCheck : Prop :=
  ∀ s u : State, ∃ t f, exec .build s = .next t ∧ t.res = some (.frame f) ∧
    exec .decode { u with input := f.bytes, respLen := 8 } =
      .next { u with input := f.bytes, respLen := 8,
                     res := some (.err .malformedPayload), phase := .idle }

/-! ## The Response Decoder -/

/-- R141: any length other than RESP_LEN, shorter or longer, ends in IncompleteFrame, whatever the bytes
are. -/
def Obligations.DecodeWrongLength : Prop :=
  ∀ s : State, 5 ≤ s.respLen → s.input.length ≠ s.respLen →
    exec .decode s = .next { s with res := some (.err .incompleteFrame), phase := .idle }

/-- R142, R143, R144: for an input seen as `body` followed by the trailer `lo hi`, the length is checked
first, then the CRC of `body` against the trailer, then the payload length `RESP_LEN - 5` against 4.
The first check that fails is the one reported, whatever the later ones would say; when none fails the
word at offsets 3 to 6 is the value. -/
def Obligations.DecodeReportsTheFirstFailingCheck : Prop :=
  ∀ (s : State) (body : List Byte) (lo hi : Byte), 5 ≤ s.respLen → s.input = body ++ [lo, hi] →
    (s.input.length ≠ s.respLen →
      exec .decode s = .next { s with res := some (.err .incompleteFrame), phase := .idle }) ∧
    (s.input.length = s.respLen → crc16 body ≠ (hi.setWidth 16 <<< 8) ||| lo.setWidth 16 →
      exec .decode s = .next { s with res := some (.err .checksumMismatch), phase := .idle }) ∧
    (s.input.length = s.respLen → crc16 body = (hi.setWidth 16 <<< 8) ||| lo.setWidth 16 →
      s.respLen - 5 ≠ 4 →
      exec .decode s = .next { s with res := some (.err .malformedPayload), phase := .idle }) ∧
    (s.input.length = s.respLen → crc16 body = (hi.setWidth 16 <<< 8) ||| lo.setWidth 16 →
      s.respLen - 5 = 4 →
      exec .decode s = .next
        { s with
          res := some (.value
            (s.input.getD 3 0 ++ s.input.getD 4 0 ++ s.input.getD 5 0 ++ s.input.getD 6 0)),
          phase := .idle })

/-- R145, R146: on this hardware every 9-byte frame with a right trailer is decoded, whatever its three
header bytes, and every one of the 2^32 payload patterns is returned unchanged; STATUS reads OK. -/
def Obligations.DecodeReturnsEveryPayloadUnchanged : Prop :=
  ∀ (s : State) (b0 b1 b2 : Byte) (w : Bits32) (lo hi : Byte), s.respLen = 9 →
    s.input = [b0, b1, b2, w.extractLsb' 24 8, w.extractLsb' 16 8, w.extractLsb' 8 8,
      w.extractLsb' 0 8, lo, hi] →
    crc16 [b0, b1, b2, w.extractLsb' 24 8, w.extractLsb' 16 8, w.extractLsb' 8 8,
      w.extractLsb' 0 8] = (hi.setWidth 16 <<< 8) ||| lo.setWidth 16 →
    ∃ t, exec .decode s = .next t ∧ t = { s with res := some (.value w), phase := .idle } ∧
      readStatus t = .ok 0x00

/-- R143: on this hardware MalformedPayload does not occur. -/
def Obligations.MalformedPayloadUnreachableAtNine : Prop :=
  ∀ s : State, s.respLen = 9 →
    ∃ t, exec .decode s = .next t ∧ t.res ≠ some (.err .malformedPayload)

/-- R147: RES holds a value after DECODE only for a frame of the right length
whose trailer is right; a failure never leaves one. -/
def Obligations.ValueOnlyFromAValidFrame : Prop :=
  ∀ (s t : State) (w : Bits32), exec .decode s = .next t → t.res = some (.value w) →
    s.respLen = 9 ∧ s.input.length = 9 ∧ crc16 s.input = 0x0000 ∧
    w = s.input.getD 3 0 ++ s.input.getD 4 0 ++ s.input.getD 5 0 ++ s.input.getD 6 0

/-! ## What every command does and leaves alone -/

/-- The frame of CRC, BUILD and DECODE (R22, R26, R30, R206): of the whole state only RES and the phase
change. No port register, no byte of IN and not RESP_LEN; the block is idle and RES holds a
result. -/
def Obligations.CommandsChangeOnlyResAndPhase : Prop :=
  ∀ (i : Instr) (s t : State), exec i s = .next t →
    t.cmd = s.cmd ∧ t.sid = s.sid ∧ t.fc = s.fc ∧ t.addr = s.addr ∧ t.qty = s.qty ∧
    t.input = s.input ∧ t.respLen = s.respLen ∧ t.phase = .idle ∧ t.res.isSome = true

/-- R22, over whole steps and over every code: no step writes a port register or the configuration. -/
def Obligations.StepsNeverWriteThePorts : Prop :=
  ∀ s t : State, step s = .next t → portsKept s t

/-- R22, R30: a command's result depends on the operands its format names and on nothing else, the older
result included. -/
def Obligations.ResultDependsOnNamedOperandsAlone : Prop :=
  ∀ (i : Instr) (s s' t : State), sameOperands i s s' → exec i s = .next t →
    ∃ t', exec i s' = .next t' ∧ t'.res = t.res

/-- R45: repeating a command with the same operands gives the same RES, and no other change. -/
def Obligations.RepeatingACommandChangesNothing : Prop :=
  ∀ (i : Instr) (s t : State), exec i s = .next t → exec i t = .next t

/-- R244, R43: every started command completes in its one step, in every state with a legal
configuration, whatever CMD holds. So BufferOverrun is never reached. -/
def Obligations.EveryStartedCommandCompletes : Prop :=
  ∀ s : State, 5 ≤ s.respLen → s.phase = .busy →
    ∃ t, step s = .next t ∧ t.phase = .idle ∧ t.res.isSome = true

/-- The invariant of the block (R26, R104, R143): every step keeps it. -/
def Obligations.StepKeepsTheBlockSound : Prop :=
  ∀ s t : State, s.inv = true → step s = .next t → t.inv = true

/-- The invariant holds after reset, and in every legal configuration after boot. -/
def Obligations.ResetStateIsSound : Prop :=
  State.reset.inv = true ∧ ∀ n t, boot n = .next t → t.inv = true

/-- The host's moves on the ports keep the invariant too (R22, R230). -/
def Obligations.HostMovesKeepTheBlockSound : Prop :=
  ∀ s : State, s.inv = true →
    (resetBlock s).inv = true ∧
    (∀ p t, writePort p s = .next t → t.inv = true) ∧
    (∀ t, start s = .next t → t.inv = true) ∧
    (∀ c t, runCommand c s = .next t → t.inv = true)

/-- R11, R43: MemRead of one byte inside IN is that byte, and a MemRead past the end of IN is the model
fault BufferOverrun, for every offset and size. -/
def Obligations.MemReadInsideAndPastTheEnd : Prop :=
  ∀ (buf : List Byte) (a : Nat),
    (∀ b, buf[a]? = some b → memRead buf a 1 = .ok b) ∧
    (∀ n, buf.length < a + n → memRead buf a n = .error .bufferOverrun)

/-! ## The host's ports and written commands -/

/-- While a command runs the host can neither write a port register nor start or issue another. R31, R184
(a) and R240 say that there is no such move; that the host can act in a busy state at all, and that
the move is then the refusal portBusy, is the model's choice (log entries 2, DESIGN CHOICE, and 13,
DEDUCED). -/
def Obligations.BusyBlockTakesNoMove : Prop :=
  ∀ (s : State) (p : PortWrite) (c : Command), s.phase = .busy → c.wellFormed = true →
    writePort p s = .refused .portBusy ∧ start s = .refused .portBusy ∧
    issue c s = .refused .portBusy

/-- A written command with an operand wider than its register is refused, in any state. R70 and decision
D14 say only that such a value cannot be presented; that a written command can hold one and is then
the refusal operandRange is the model's choice (log entry 22, DESIGN CHOICE). -/
def Obligations.OverwideOperandsAreRefused : Prop :=
  ∀ (s : State) (sid fc addr qty : Nat) (data : List Nat),
    (256 ≤ sid ∨ 256 ≤ fc ∨ 65536 ≤ addr ∨ 65536 ≤ qty →
      issue (.build sid fc addr qty) s = .refused .operandRange) ∧
    ((∃ n ∈ data, 256 ≤ n) →
      issue (.crc data) s = .refused .operandRange ∧
      issue (.decode data) s = .refused .operandRange)

/-- R62, R63, R71, R232: a well-formed written command on an idle block runs to completion. CMD takes
its code, it writes the operand registers its format names and no others, and RESP_LEN is kept. -/
def Obligations.WrittenCommandRunsToCompletion : Prop :=
  ∀ (c : Command) (s : State), c.wellFormed = true → 5 ≤ s.respLen → s.phase = .idle →
    ∃ t, runCommand c s = .next t ∧ t.phase = .idle ∧ t.res.isSome = true ∧
      t.respLen = s.respLen ∧
      match c with
      | .crc data => t.cmd = 0x01 ∧ t.input.map BitVec.toNat = data ∧
          t.sid = s.sid ∧ t.fc = s.fc ∧ t.addr = s.addr ∧ t.qty = s.qty
      | .build sid fc addr qty => t.cmd = 0x02 ∧ t.sid.toNat = sid ∧ t.fc.toNat = fc ∧
          t.addr.toNat = addr ∧ t.qty.toNat = qty ∧ t.input = s.input
      | .decode raw => t.cmd = 0x03 ∧ t.input.map BitVec.toNat = raw ∧
          t.sid = s.sid ∧ t.fc = s.fc ∧ t.addr = s.addr ∧ t.qty = s.qty
      | .illegal code => t.cmd.toNat = code ∧ t.res = some (.err .illegalCommand) ∧
          t.sid = s.sid ∧ t.fc = s.fc ∧ t.addr = s.addr ∧ t.qty = s.qty ∧ t.input = s.input

/-- R65, R73: the listing of a well-formed command reads back as that command, every operand at every
value. -/
def Obligations.ListingRoundTrip : Prop :=
  ∀ c : Command, c.wellFormed = true → decodeListing (encodeListing c) = .ok c

/-- R65: a listing line that is read is the listing of a well-formed command, and of one only. -/
def Obligations.ListingHasOneMeaning : Prop :=
  ∀ (ts : List Token) (c : Command), decodeListing ts = .ok c →
    c.wellFormed = true ∧ encodeListing c = ts

/-- R74, R171: `READREQ sid, addr` on an idle block leaves in RES the frame with function code `0x04` and
quantity 2, for every slave id and every address. -/
def Obligations.ReadReqBuildsTheRequest : Prop :=
  ∀ (s : State) (sid : Byte) (addr : Word), 5 ≤ s.respLen → s.phase = .idle →
    ∃ t f, runCommand (readReq sid.toNat addr.toNat) s = .next t ∧ t.res = some (.frame f) ∧
      f.headerBytes = [sid, 0x04, addr.extractLsb' 8 8, addr.extractLsb' 0 8, 0x00, 0x02] ∧
      crc16 f.headerBytes = (f.crcHi.setWidth 16 <<< 8) ||| f.crcLo.setWidth 16 ∧
      t.input = s.input ∧ t.respLen = s.respLen

/-! ## Several blocks -/

/-- R9, R211: a step of one instance is that block's own step and leaves every other instance as it
was. -/
def Obligations.InstancesShareNothing : Prop :=
  ∀ (blocks : List State) (k : Nat),
    (∀ s t, blocks[k]? = some s → step s = .next t →
      stepInstance k blocks = .next (blocks.set k t)) ∧
    (∀ after, stepInstance k blocks = .next after →
      after.length = blocks.length ∧ ∀ j, j ≠ k → after[j]? = blocks[j]?)

/-! ## The binary32 reading -/

/-- R145 (the reading is general knowledge, log entry 18): `0x43AF0000` stands for 350, and patterns
that are no NaN stand for different readings when they differ: the reading loses no bit. -/
def Obligations.Binary32ReadingLosesNothing : Prop :=
  readingValue (readBinary32 0x43AF0000) = some 350 ∧
  ∀ w w' : Bits32, readBinary32 w = readBinary32 w' →
    (∀ q, readBinary32 w ≠ .nan q) → w = w'

/-! ## The host profile -/

/-- R170: the register map, in the order of the table. -/
def Obligations.RegisterMap : Prop :=
  pollOrder.map (fun q => (q, q.address)) =
    [(.voltage, 0x0000), (.current, 0x0006), (.activePower, 0x000C), (.apparentPower, 0x0012),
      (.reactivePower, 0x0018), (.powerFactor, 0x001E), (.frequency, 0x0046),
      (.totalActiveEnergy, 0x0156)]

/-- The invariant of the host model (R173 to R179): from every state that meets it and for every answer
of the transport, the host takes a step, with no fault and no refusal, to a state that meets it. -/
def Obligations.PollStepKeepsTheCycleSound : Prop :=
  ∀ (d : Draw) (h : PollState), h.inv → ∃ h', pollStep d h = .next h' ∧ h'.inv

/-- R176, R177, R181: a cycle starts only between cycles, with a fresh, empty result set, and meets the
invariant. That a start in a running cycle is the refusal cycleRunning is the model's choice (log
entry 25). -/
def Obligations.CycleStartsFresh : Prop :=
  ∀ (sid : Byte) (h : PollState), h.inv →
    (h.pos.between = true → ∃ h', pollAll sid h = .next h' ∧ h'.inv ∧ h'.slaveId = sid ∧
      h'.pos = .build .voltage ∧ h'.results = [] ∧ h'.handed = none) ∧
    (h.pos.between = false → pollAll sid h = .refused .cycleRunning)

/-- R173, R177, R178: one exchange with a working transport takes six steps (the model's division, log
entry 16), whatever bytes the read returns. It sends the quantity's request, records the measurement for the bytes read and no other,
and goes on to the next quantity, or hands the set on after the last. -/
def Obligations.ExchangeRecordsWhatWasRead : Prop :=
  ∀ (h : PollState) (q : Quantity) (d1 d2 d3 d4 d5 d6 : Draw),
    h.inv → h.pos = .build q → d2.writeOk = true → d4.readOk = true →
    ∃ h' m, pollRun [d1, d2, d3, d4, d5, d6] h = .next h' ∧
      measurementFor h.block.respLen (d4.raw.take h.block.respLen) = some m ∧
      h'.sent = h.sent ++ [requestFor h.slaveId q] ∧
      match q.next? with
      | some q' => h'.pos = .build q' ∧ h'.results = h.results ++ [(q, m)] ∧ h'.handed = none
      | none => h'.pos = .idle ∧ h'.handed = some (h.results ++ [(q, m)])

/-- R176, R178, W8: a cycle that meets no transport fault attempts all eight quantities in order, whatever
the reads return, and hands on a set with all eight names. The 48 answers are six steps for each of
eight exchanges, the model's choice (log entry 16, DESIGN CHOICE). -/
def Obligations.CycleAttemptsAllEight : Prop :=
  ∀ (h : PollState) (ds : List Draw), h.inv → h.pos = .build .voltage → ds.length = 48 →
    (∀ d ∈ ds, d.writeOk = true ∧ d.readOk = true) →
    ∃ h' rs, pollRun ds h = .next h' ∧ h'.pos = .idle ∧ h'.handed = some rs ∧
      rs.map Prod.fst = pollOrder ∧ h'.sent = pollOrder.map (requestFor h.slaveId)

/-- R179: a failing write, and by decision D22 a failing read, ends the cycle at once; the block is not
touched, no result set is handed on, and none ever is without a new cycle (the position where the host
then stands is the model's, log entry 15). -/
def Obligations.TransportFaultEndsTheCycle : Prop :=
  ∀ (h : PollState) (d : Draw) (q : Quantity), h.inv →
    ((∃ f, h.pos = .write q f) ∧ d.writeOk = false) ∨ (h.pos = .read q ∧ d.readOk = false) →
    ∃ h', pollStep d h = .next h' ∧ h'.pos = .aborted ∧ h'.block = h.block ∧
      h'.handed = none ∧ ∀ ds, pollRun ds h' = .next h'

/-- R177, R147, conflict C7: under every legal configuration every read gives a measurement; a read of
the wrong length is `unavailable`, and a value is recorded only for a whole frame with a right
trailer. -/
def Obligations.UnavailableUnlessAValidFrame : Prop :=
  ∀ (n : Nat) (raw : List Byte), 5 ≤ n →
    (∃ m, measurementFor n raw = some m) ∧
    (raw.length ≠ n → measurementFor n raw = some .unavailable) ∧
    (∀ w, measurementFor n raw = some (.value w) →
      n = 9 ∧ raw.length = 9 ∧ crc16 raw = 0x0000)

/-! ## Several pollers on one transport -/

/-- R181, the invariant of several pollers on one transport: from every state that meets it and for every
answer of the transport the bus takes a step, with no fault and no refusal, to a state that meets it.
At most one poll runs, no two exchanges overlap on the transport and no read goes to another poller. -/
def Obligations.BusStepKeepsPollsSerialised : Prop :=
  ∀ (d : Draw) (b : BusState), b.inv → ∃ b', busStep d b = .next b' ∧ b'.inv

/-- A transport on which no poll has run meets the invariant, for any pollers that are between cycles and
meet their own (R181). -/
def Obligations.ReadyBusIsSound : Prop :=
  ∀ pollers : List PollState, (∀ h ∈ pollers, h.inv ∧ h.pos.between = true) →
    (BusState.ready pollers).inv

/-- R181, R51: a poll, of any slave, starts on the transport exactly when none runs, and the bus meets the
invariant again; while one runs, no poller starts another. The refusal cycleRunning, the poll cycle as
the unit that is serialised and the place with no poller are the model's (log entry 25). -/
def Obligations.PollsStartOneAtATime : Prop :=
  ∀ (k : Nat) (sid : Byte) (b : BusState), b.inv →
    (∀ j, b.holder = some j → busPollAll k sid b = .refused .cycleRunning) ∧
    (∀ h, b.holder = none → b.pollers[k]? = some h →
      ∃ b' h', busPollAll k sid b = .next b' ∧ b'.inv ∧ b'.holder = some k ∧
        pollAll sid h = .next h' ∧ b'.pollers = b.pollers.set k h' ∧ b'.traffic = b.traffic) ∧
    (b.holder = none → b.pollers.length ≤ k → busPollAll k sid b = .next b)

/-- R9, R181, R211: a step of the bus is the step of the poller that holds the transport and leaves every
other poller, its block included, as it was; the transport is free again exactly when that poll has
ended. With no poll running the bus waits (log entry 25). -/
def Obligations.BusStepMovesTheHolderAlone : Prop :=
  ∀ (d : Draw) (b : BusState),
    (∀ k h h', b.holder = some k → b.pollers[k]? = some h → pollStep d h = .next h' →
      ∃ b', busStep d b = .next b' ∧ b'.pollers[k]? = some h' ∧
        (∀ j, j ≠ k → b'.pollers[j]? = b.pollers[j]?) ∧
        (b'.holder = none ↔ h'.pos.between = true) ∧
        (∀ j, b'.holder = some j → j = k)) ∧
    (b.holder = none → busStep d b = .next b)

/-- R178, R181: a poll started on a free transport that meets no transport fault runs to its end, whatever
the reads return. All eight requests to the slave it was started for go over the transport and none
of another poller's between them; all eight names are handed on; no other poller moved; and the
transport is free for the next poll. The 48 answers are the model's choice (log entry 16, DESIGN
CHOICE). -/
def Obligations.PollOnAFreeTransportCompletes : Prop :=
  ∀ (k : Nat) (sid : Byte) (b : BusState) (h : PollState) (ds : List Draw),
    b.inv → b.holder = none → b.pollers[k]? = some h → ds.length = 48 →
    (∀ d ∈ ds, d.writeOk = true ∧ d.readOk = true) →
    ∃ b0 b' h', busPollAll k sid b = .next b0 ∧ busRun ds b0 = .next b' ∧ b'.inv ∧
      b'.holder = none ∧ b'.pollers[k]? = some h' ∧
      h'.handed.map (List.map Prod.fst) = some pollOrder ∧
      (∀ j, j ≠ k → b'.pollers[j]? = b.pollers[j]?) ∧
      requestsOf b'.traffic =
        requestsOf b.traffic ++ pollOrder.map fun q => (k, requestFor sid q)

end
end

