-- ==== Sys2Proof/Laws/Operands.lean ====
section
/-! SUPPORT. Splitting a 16-bit value into bytes and putting it together again (rule R68), and the parts
of a byte sequence that the commands take (rule R10). -/

namespace Sys2Proof.Machine

open Sys2Proof

theorem zext16_toNat (b : Byte) : (zext16 b).toNat = b.toNat := by
  simp [zext16, BitVec.toNat_setWidth]; omega

theorem lo8_toNat (v : Word) : (lo8 v).toNat = v.toNat % 256 := by
  simp [lo8, BitVec.extractLsb'_toNat]

theorem hi8_toNat (v : Word) : (hi8 v).toNat = v.toNat / 256 := by
  have := v.isLt
  simp [hi8, BitVec.extractLsb'_toNat, Nat.shiftRight_eq_div_pow]; omega

/-- The two bytes side by side, as a number. -/
theorem joinWord_toNat (hi lo : Byte) : (joinWord hi lo).toNat = hi.toNat * 256 + lo.toNat := by
  have h1 := hi.isLt
  have h2 := lo.isLt
  simp only [joinWord, BitVec.toNat_or, BitVec.toNat_shiftLeft, zext16_toNat]
  rw [Nat.mod_eq_of_lt (by simp only [Nat.shiftLeft_eq]; omega),
    ← Nat.shiftLeft_add_eq_or_of_lt (by simpa using h2), Nat.shiftLeft_eq]

theorem joinWord_split (v : Word) : joinWord (hi8 v) (lo8 v) = v := by
  apply BitVec.eq_of_toNat_eq
  rw [joinWord_toNat, hi8_toNat, lo8_toNat]; omega

theorem hi8_joinWord (hi lo : Byte) : hi8 (joinWord hi lo) = hi := by
  apply BitVec.eq_of_toNat_eq
  have := lo.isLt
  rw [hi8_toNat, joinWord_toNat]; omega

theorem lo8_joinWord (hi lo : Byte) : lo8 (joinWord hi lo) = lo := by
  apply BitVec.eq_of_toNat_eq
  have := lo.isLt
  rw [lo8_toNat, joinWord_toNat]; omega

/-- A part of a sequence that is followed by two more bytes: everything before them. -/
theorem slice_zero_append_two (s : List Byte) (lo hi : Byte) (h : s ≠ []) :
    slice (s ++ [lo, hi]) 0 ((s ++ [lo, hi]).length - 3) = s := by
  have : 0 < s.length := List.length_pos_iff.mpr h
  have e : (s ++ [lo, hi]).length - 3 + 1 - 0 = s.length := by simp; omega
  simp only [slice, Nat.not_lt_zero, if_false, List.drop_zero, e, List.take_left]

/-- How long the bytes between a three-byte header and a two-byte trailer are. -/
theorem slice_three_length (s : List Byte) (h : 5 ≤ s.length) :
    (slice s 3 (s.length - 3)).length = s.length - 5 := by
  unfold slice
  split
  · simp; omega
  · simp; omega

end Sys2Proof.Machine
end

