-- ==== Sys2Proof/Laws/Ops.lean ====
section
/-! SUPPORT. What the shared operations over the byte buffers do, said once: MemRead answers the bytes it
names or the fault, MemWrite keeps OUT canonical and a byte read back is the one last written. -/

namespace Sys2Proof.Machine

open Sys2Proof

/-! ## MemRead -/

/-- Everything `memRead` can do. -/
theorem memRead_cases (buf : List Byte) (addr n : Nat) :
    (addr + n ≤ buf.length ∧
        memRead buf addr n = .ok (BitVec.ofNat (8 * n) (bigEndian ((buf.drop addr).take n)))) ∨
      (buf.length < addr + n ∧ memRead buf addr n = .error .bufferOverrun) := by
  unfold memRead
  split
  · exact .inl ⟨‹_›, rfl⟩
  · exact .inr ⟨by omega, rfl⟩

theorem bigEndian_one (b : Byte) : BitVec.ofNat 8 (bigEndian [b]) = b := by
  simp [bigEndian]

/-- Four bytes read big-endian are the bytes put side by side, the first on top (R11). -/
theorem bigEndian_four (b0 b1 b2 b3 : Byte) :
    BitVec.ofNat 32 (bigEndian [b0, b1, b2, b3]) = b0 ++ b1 ++ b2 ++ b3 := by
  apply BitVec.eq_of_toNat_eq
  have h0 := b0.isLt
  have h1 := b1.isLt
  have h2 := b2.isLt
  have h3 := b3.isLt
  simp only [bigEndian, List.foldl, BitVec.toNat_ofNat, BitVec.toNat_append]
  rw [← Nat.shiftLeft_add_eq_or_of_lt h1, ← Nat.shiftLeft_add_eq_or_of_lt h2,
    ← Nat.shiftLeft_add_eq_or_of_lt h3]
  simp only [Nat.shiftLeft_eq]
  omega

/-- One byte read inside the buffer is that byte. -/
theorem memRead_one (buf : List Byte) (addr : Nat) (h : addr < buf.length) :
    memRead buf addr 1 = .ok buf[addr] := by
  have hd : (buf.drop addr).take 1 = [buf[addr]] := by
    rw [List.drop_eq_getElem_cons h]; rfl
  unfold memRead
  rw [if_pos (by omega), hd]
  exact congrArg _ (bigEndian_one _)

/-- Four bytes read from the start of a sequence of at least four. -/
theorem memRead_four (pre post : List Byte) (b0 b1 b2 b3 : Byte) :
    memRead (pre ++ b0 :: b1 :: b2 :: b3 :: post) pre.length 4
      = .ok (b0 ++ b1 ++ b2 ++ b3) := by
  unfold memRead
  rw [if_pos (by simp), List.drop_left]
  exact congrArg _ (bigEndian_four b0 b1 b2 b3)

/-! ## MemWrite -/

theorem splitBytes_one (b : Byte) : splitBytes 1 b = [b] := by
  simp [splitBytes, List.range_succ]

/-- Writing one byte keeps the offsets strictly rising, above any bound they were above. -/
theorem OutBuf.set_wf_above (o : OutBuf) (a : Nat) (b : Byte) (c : Nat) (d : Byte)
    (h : OutBuf.wf ((c, d) :: o) = true) (hc : c < a) :
    OutBuf.wf ((c, d) :: o.set a b) = true := by
  induction o generalizing c d with
  | nil => simpa [OutBuf.set, OutBuf.wf] using hc
  | cons x rest ih =>
    obtain ⟨a', b'⟩ := x
    simp only [OutBuf.wf, Bool.and_eq_true, decide_eq_true_eq] at h
    unfold OutBuf.set
    split
    · simp [OutBuf.wf, *]
    · split
      · subst ‹a = a'›
        cases rest with
        | nil => simpa [OutBuf.wf] using hc
        | cons y ys =>
          obtain ⟨a2, b2⟩ := y
          simp only [OutBuf.wf, Bool.and_eq_true, decide_eq_true_eq] at h ⊢
          exact ⟨hc, h.2⟩
      · simp only [OutBuf.wf, Bool.and_eq_true, decide_eq_true_eq]
        exact ⟨h.1, ih a' b' h.2 (by omega)⟩

/-- Writing one byte keeps OUT canonical. -/
theorem OutBuf.set_wf (o : OutBuf) (a : Nat) (b : Byte) (h : o.wf = true) :
    (o.set a b).wf = true := by
  cases o with
  | nil => rfl
  | cons x rest =>
    obtain ⟨a', b'⟩ := x
    unfold OutBuf.set
    split
    · simp [OutBuf.wf, *]
    · split
      · subst ‹a = a'›
        cases rest with
        | nil => rfl
        | cons y ys =>
          simp only [OutBuf.wf, Bool.and_eq_true, decide_eq_true_eq] at h ⊢
          exact h
      · exact OutBuf.set_wf_above rest a b a' b' h (by omega)

theorem OutBuf.setAll_wf (bs : List Byte) (o : OutBuf) (a : Nat) (h : o.wf = true) :
    (o.setAll a bs).wf = true := by
  induction bs generalizing o a with
  | nil => exact h
  | cons b bs ih => exact ih _ _ (OutBuf.set_wf o a b h)

/-- `memWrite` keeps OUT canonical. -/
theorem memWrite_wf (o o' : OutBuf) (addr n : Nat) (v : BitVec (8 * n)) (h : o.wf = true)
    (hw : memWrite o addr n v = .ok o') : o'.wf = true := by
  unfold memWrite at hw
  split at hw
  · cases hw; exact OutBuf.setAll_wf _ _ _ h
  · cases hw

theorem OutBuf.empty_wf : OutBuf.empty.wf = true := rfl

/-- A byte read after a write is the one written. -/
theorem OutBuf.get?_set_self (o : OutBuf) (a : Nat) (b : Byte) : (o.set a b).get? a = some b := by
  induction o with
  | nil => simp [OutBuf.set, OutBuf.get?]
  | cons x rest ih =>
    obtain ⟨a', b'⟩ := x
    unfold OutBuf.set
    split
    · simp [OutBuf.get?]
    · split
      · simp [OutBuf.get?]
      · simp [OutBuf.get?, *]

/-- A write leaves every other offset alone. -/
theorem OutBuf.get?_set_other (o : OutBuf) (a c : Nat) (b : Byte) (hne : c ≠ a) :
    (o.set a b).get? c = o.get? c := by
  induction o with
  | nil => simp [OutBuf.set, OutBuf.get?, hne]
  | cons x rest ih =>
    obtain ⟨a', b'⟩ := x
    unfold OutBuf.set
    split
    · simp [OutBuf.get?, hne]
    · split
      · subst ‹a = a'›; simp [OutBuf.get?, hne]
      · simp [OutBuf.get?, ih]

end Sys2Proof.Machine
end

