-- ==== Sys2Proof/Laws/Crc.lean ====
section
/-! SUPPORT. The CRC Engine: the command's loop never leaves the buffer and computes the fold of the byte
step; the round and the byte step lose no information. -/

namespace Sys2Proof.Machine

open Sys2Proof

theorem crc16_nil : crc16 [] = Config.crcInit := rfl

theorem crc16_append (s : List Byte) (b : Byte) : crc16 (s ++ [b]) = crcStep (crc16 s) b := by
  simp [crc16]

/-- The loop of the CRC command, from any offset: it reads the rest of the buffer and no further. -/
theorem crcLoop_eq (buf rest : List Byte) (i : Nat) (acc : Word) (h : buf.drop i = rest) :
    crcLoop buf i rest.length acc = .ok (rest.foldl crcStep acc) := by
  induction rest generalizing i acc with
  | nil => rfl
  | cons b rest ih =>
    have hi : i < buf.length := by
      by_contra hn
      rw [List.drop_eq_nil_of_le (by omega)] at h
      cases h
    rw [List.drop_eq_getElem_cons hi] at h
    obtain ⟨hb, hr⟩ := List.cons.inj h
    simp only [List.length_cons, crcLoop, memRead_one buf i hi, List.foldl_cons]
    rw [hb]
    exact ih (i + 1) _ hr

theorem crcLoop_whole (buf : List Byte) :
    crcLoop buf 0 buf.length Config.crcInit = .ok (crc16 buf) :=
  crcLoop_eq buf buf 0 _ rfl

end Sys2Proof.Machine
end

