-- ==== Sys2Proof/Laws/Builder.lean ====
section
/-! SUPPORT. What the eight writes of BUILD leave in OUT: they never leave the buffer. -/

namespace Sys2Proof.Machine

open Sys2Proof

/-- The first six bytes of OUT, as BUILD reads them back. -/
abbrev headerOf (sid fc : Byte) (addr qty : Word) : List Byte :=
  [sid, fc, hi8 addr, lo8 addr, hi8 qty, lo8 qty]

theorem buildFrame_eq (sid fc : Byte) (addr qty : Word) :
    buildFrame sid fc addr qty
      = .ok ⟨sid, fc, hi8 addr, lo8 addr, hi8 qty, lo8 qty,
          lo8 (crc16 (headerOf sid fc addr qty)), hi8 (crc16 (headerOf sid fc addr qty))⟩ := by
  have w (o : OutBuf) (a : Nat) (v : Byte) (h : a + 1 ≤ 8) :
      memWrite o a 1 v = .ok (o.set a v) := by
    unfold memWrite
    rw [if_pos (by simpa [Config.requestLen] using h), splitBytes_one]
    rfl
  unfold buildFrame
  simp [w, OutBuf.empty, OutBuf.set, outSlice, outByte, outFrame, OutBuf.get?, bind, Except.bind]

end Sys2Proof.Machine
end

