-- ==== Sys2Proof/Laws/Bus.lean ====
section
/-! SUPPORT. Said once: what a move of one poller does to the bus, what a step of the bus can do, and how
the exchange in flight is read off a longer traffic. -/

namespace Sys2Proof.Machine

open Sys2Proof

section Moved
variable (b : BusState) (k : Nat) (h : PollState) (events : List BusEvent)
@[simp] theorem BusState.moved_pollers : (b.moved k h events).pollers = b.pollers.set k h := rfl
@[simp] theorem BusState.moved_holder :
    (b.moved k h events).holder = if h.pos.between then none else some k := rfl
@[simp] theorem BusState.moved_traffic : (b.moved k h events).traffic = b.traffic ++ events := rfl
@[simp] theorem BusState.ready_pollers (l : List PollState) : (BusState.ready l).pollers = l := rfl
@[simp] theorem BusState.ready_holder (l : List PollState) : (BusState.ready l).holder = none := rfl
@[simp] theorem BusState.ready_traffic (l : List PollState) : (BusState.ready l).traffic = [] := rfl
end Moved

/-- The poller that moved is where it moved to. -/
theorem BusState.moved_self (b : BusState) (k : Nat) (h : PollState) (events : List BusEvent)
    (hk : k < b.pollers.length) : (b.moved k h events).pollers[k]? = some h := by
  simp [hk]

/-- No other poller moved. -/
theorem BusState.moved_other (b : BusState) (k j : Nat) (h : PollState) (events : List BusEvent)
    (hj : j ≠ k) : (b.moved k h events).pollers[j]? = b.pollers[j]? := by
  simp [hj.symm]

/-- Everything a step of the bus can do: nothing, or the step of the poller that holds the transport. -/
theorem busStep_cases (d : Draw) (b : BusState) :
    (b.holder = none ∧ busStep d b = .next b) ∨
      (∃ k, b.holder = some k ∧ b.pollers[k]? = none ∧ busStep d b = .next b) ∨
      ∃ k h, b.holder = some k ∧ b.pollers[k]? = some h ∧
        busStep d b = b.after k (busTraffic d k h) (pollStep d h) := by
  unfold busStep
  cases hh : b.holder with
  | none => exact .inl ⟨rfl, rfl⟩
  | some k =>
    cases hk : b.pollers[k]? with
    | none => exact .inr (.inl ⟨k, rfl, hk, by simp only [hk]⟩)
    | some h => exact .inr (.inr ⟨k, h, rfl, hk, by simp only [hk]⟩)

/-- The exchange in flight after more traffic is read on from where it stood. -/
theorem inFlightAfter_append (t events : List BusEvent) (o : Option Nat)
    (ht : inFlightAfter t = some o) :
    inFlightAfter (t ++ events) = events.foldlM exchangeAfter o := by
  unfold inFlightAfter at *
  rw [List.foldlM_append, ht]
  rfl

/-- A move of the poller at place `k` keeps the invariant of the bus when no other poller holds the
transport, the poller keeps its own invariant, and the exchange in flight and the last event fit where
it moved to. -/
theorem BusState.moved_inv (b : BusState) (k : Nat) (h h' : PollState) (events : List BusEvent)
    (hi : b.inv) (hk : b.pollers[k]? = some h) (hh : ∀ j, b.holder = some j → j = k) (hi' : h'.inv)
    (hin : inFlightAfter (b.traffic ++ events) = some (b.moved k h' events).inFlight)
    (hl : lastIsItsOwn (b.traffic ++ events) k h') : (b.moved k h' events).inv := by
  obtain ⟨i1, -, i3, -, -⟩ := hi
  have hlt : k < b.pollers.length := (List.getElem?_eq_some_iff.mp hk).1
  have other : ∀ j x, j ≠ k → b.pollers[j]? = some x → x.pos.between = true := by
    intro j x hj hx
    have hn : x.pos.between ≠ false := fun e => hj (hh _ ((i3 j x hx).mp e))
    simpa using hn
  refine ⟨?_, ?_, ?_, hin, ?_⟩
  · intro x hx
    rcases List.mem_or_eq_of_mem_set hx with hx | rfl
    · exact i1 x hx
    · exact hi'
  · intro j hj
    have : k = j := by simpa using (by simpa using hj : _ ∧ k = j).2
    simpa [← this] using hlt
  · intro j x hx
    by_cases hj : j = k
    · subst hj
      rw [BusState.moved_self _ _ _ _ hlt] at hx
      cases hx
      simp
    · rw [BusState.moved_other _ _ _ _ _ hj] at hx
      have hb := other j x hj hx
      simpa [hb] using fun _ (e : k = j) => hj e.symm
  · intro j x hx
    by_cases hj : j = k
    · subst hj
      rw [BusState.moved_self _ _ _ _ hlt] at hx
      cases hx
      exact hl
    · rw [BusState.moved_other _ _ _ _ _ hj] at hx
      have hb := other j x hj hx
      cases e : x.pos <;> simp [e, PollPos.between] at hb <;> simp [lastIsItsOwn, e]

@[simp] theorem requestsOf_append (t u : List BusEvent) :
    requestsOf (t ++ u) = requestsOf t ++ requestsOf u := List.filterMap_append

end Sys2Proof.Machine
end

