-- ==== Sys2Proof/Laws/Decoder.lean ====
section
/-! SUPPORT. The reads DECODE makes once its length check has passed: none of them leaves the buffer. -/

namespace Sys2Proof.Machine

open Sys2Proof

/-- The trailer of a sequence that ends in two given bytes. -/
theorem receivedCrc_append (s : List Byte) (lo hi : Byte) :
    receivedCrc (s ++ [lo, hi]) = .ok (joinWord hi lo) := by
  have h1 : memRead (s ++ [lo, hi]) ((s ++ [lo, hi]).length - 1) 1 = .ok hi := by
    rw [memRead_one _ _ (by simp)]
    simp
  have h2 : memRead (s ++ [lo, hi]) ((s ++ [lo, hi]).length - 2) 1 = .ok lo := by
    rw [memRead_one _ _ (by simp)]
    simp
  unfold receivedCrc
  rw [h1, h2]
  rfl

/-- A sequence of at least two bytes, seen as its trailer and what comes before. -/
theorem exists_append_two (s : List Byte) (h : 2 ≤ s.length) :
    ∃ r lo hi, s = r ++ [lo, hi] := by
  obtain ⟨r, hi, rfl⟩ := (List.eq_nil_or_concat s).resolve_left (by rintro rfl; simp at h)
  obtain ⟨r, lo, rfl⟩ := (List.eq_nil_or_concat r).resolve_left (by rintro rfl; simp at h)
  exact ⟨r, lo, hi, by simp⟩

/-- A frame of a right configuration and length, with the trailer split off: DECODE compares, then
measures the payload, then reads it. -/
theorem execDecode_eq (s : State) (body : List Byte) (lo hi : Byte)
    (hc : 5 ≤ s.respLen) (hin : s.input = body ++ [lo, hi])
    (hl : s.respLen = body.length + 2) :
    execDecode s =
      if crc16 body ≠ joinWord hi lo then .next (s.raiseError .checksumMismatch)
      else if body.length ≠ 7 then .next (s.raiseError .malformedPayload)
      else .next (s.complete (.value (BitVec.ofNat 32 (bigEndian (body.drop 3))))) := by
  have hb : body ≠ [] := by rintro rfl; simp at hl; omega
  have hcov : crcCovered s.input = body := by
    rw [hin]; exact slice_zero_append_two body lo hi hb
  have hpay : (payload s.input).length = body.length - 3 := by
    have := slice_three_length s.input (by rw [hin]; simp; omega)
    rw [show payload s.input = slice s.input 3 (s.input.length - 3) from rfl, this, hin]
    simp
  have hlegal : configLegal s.respLen = true := decide_eq_true hc
  unfold execDecode
  rw [hlegal, hcov, hpay, if_neg (by simp), if_neg (by rw [hin]; simp; omega), hin,
    receivedCrc_append]
  simp only
  split
  · rfl
  · by_cases h7 : body.length = 7
    · rw [if_neg (by simp [Config.payloadLen, h7]), if_neg (by simp [h7])]
      have : memRead (body ++ [lo, hi]) Config.headerLen 4
          = .ok (BitVec.ofNat 32 (bigEndian (body.drop 3))) := by
        unfold memRead
        rw [if_pos (by simp [Config.headerLen, h7])]
        have : ((body ++ [lo, hi]).drop Config.headerLen).take 4 = body.drop 3 := by
          rw [List.drop_append_of_le_length (by simp [Config.headerLen, h7]),
            List.take_append_of_le_length (by simp [Config.headerLen, h7])]
          exact List.take_of_length_le (by simp [Config.headerLen, h7])
        rw [this]
      rw [this]
    · rw [if_pos (by simp only [Config.payloadLen]; omega), if_pos h7]

end Sys2Proof.Machine
end

