-- ==== Sys2Proof/Laws/State.lean ====
section
/-! SUPPORT. One lemma per field per update of State, so that no proof unfolds a record update. -/

namespace Sys2Proof.Machine

open Sys2Proof

section Complete
variable (s : State) (r : Result)
@[simp] theorem State.complete_cmd : (s.complete r).cmd = s.cmd := rfl
@[simp] theorem State.complete_sid : (s.complete r).sid = s.sid := rfl
@[simp] theorem State.complete_fc : (s.complete r).fc = s.fc := rfl
@[simp] theorem State.complete_addr : (s.complete r).addr = s.addr := rfl
@[simp] theorem State.complete_qty : (s.complete r).qty = s.qty := rfl
@[simp] theorem State.complete_input : (s.complete r).input = s.input := rfl
@[simp] theorem State.complete_res : (s.complete r).res = some r := rfl
@[simp] theorem State.complete_respLen : (s.complete r).respLen = s.respLen := rfl
@[simp] theorem State.complete_phase : (s.complete r).phase = .idle := rfl
end Complete

section RaiseError
variable (s : State) (e : ErrorKind)
@[simp] theorem State.raiseError_cmd : (s.raiseError e).cmd = s.cmd := rfl
@[simp] theorem State.raiseError_sid : (s.raiseError e).sid = s.sid := rfl
@[simp] theorem State.raiseError_fc : (s.raiseError e).fc = s.fc := rfl
@[simp] theorem State.raiseError_addr : (s.raiseError e).addr = s.addr := rfl
@[simp] theorem State.raiseError_qty : (s.raiseError e).qty = s.qty := rfl
@[simp] theorem State.raiseError_input : (s.raiseError e).input = s.input := rfl
@[simp] theorem State.raiseError_res : (s.raiseError e).res = some (.err e) := rfl
@[simp] theorem State.raiseError_respLen : (s.raiseError e).respLen = s.respLen := rfl
@[simp] theorem State.raiseError_phase : (s.raiseError e).phase = .idle := rfl
end RaiseError

section WithCommand
variable (s : State) (w : Nat)
@[simp] theorem State.withCommand_cmd : (s.withCommand w).cmd = BitVec.ofNat 8 w := rfl
@[simp] theorem State.withCommand_sid : (s.withCommand w).sid = s.sid := rfl
@[simp] theorem State.withCommand_fc : (s.withCommand w).fc = s.fc := rfl
@[simp] theorem State.withCommand_addr : (s.withCommand w).addr = s.addr := rfl
@[simp] theorem State.withCommand_qty : (s.withCommand w).qty = s.qty := rfl
@[simp] theorem State.withCommand_input : (s.withCommand w).input = s.input := rfl
@[simp] theorem State.withCommand_res : (s.withCommand w).res = s.res := rfl
@[simp] theorem State.withCommand_respLen : (s.withCommand w).respLen = s.respLen := rfl
@[simp] theorem State.withCommand_phase : (s.withCommand w).phase = .busy := rfl
end WithCommand

section ResetBlock
variable (s : State)
@[simp] theorem resetBlock_res : (resetBlock s).res = none := rfl
@[simp] theorem resetBlock_respLen : (resetBlock s).respLen = s.respLen := rfl
@[simp] theorem resetBlock_phase : (resetBlock s).phase = .idle := rfl
end ResetBlock

section Put
variable (s : State) (b : Byte) (w : Word) (l : List Byte)
@[simp] theorem State.put_res (p : PortWrite) : (s.put p).res = s.res := by cases p <;> rfl
@[simp] theorem State.put_respLen (p : PortWrite) : (s.put p).respLen = s.respLen := by
  cases p <;> rfl
@[simp] theorem State.put_phase (p : PortWrite) : (s.put p).phase = s.phase := by cases p <;> rfl
@[simp] theorem State.put_cmd_cmd : (s.put (.cmd b)).cmd = b := rfl
@[simp] theorem State.put_cmd_sid : (s.put (.cmd b)).sid = s.sid := rfl
@[simp] theorem State.put_cmd_fc : (s.put (.cmd b)).fc = s.fc := rfl
@[simp] theorem State.put_cmd_addr : (s.put (.cmd b)).addr = s.addr := rfl
@[simp] theorem State.put_cmd_qty : (s.put (.cmd b)).qty = s.qty := rfl
@[simp] theorem State.put_cmd_input : (s.put (.cmd b)).input = s.input := rfl
@[simp] theorem State.put_sid_cmd : (s.put (.sid b)).cmd = s.cmd := rfl
@[simp] theorem State.put_sid_sid : (s.put (.sid b)).sid = b := rfl
@[simp] theorem State.put_sid_fc : (s.put (.sid b)).fc = s.fc := rfl
@[simp] theorem State.put_sid_addr : (s.put (.sid b)).addr = s.addr := rfl
@[simp] theorem State.put_sid_qty : (s.put (.sid b)).qty = s.qty := rfl
@[simp] theorem State.put_sid_input : (s.put (.sid b)).input = s.input := rfl
@[simp] theorem State.put_fc_cmd : (s.put (.fc b)).cmd = s.cmd := rfl
@[simp] theorem State.put_fc_sid : (s.put (.fc b)).sid = s.sid := rfl
@[simp] theorem State.put_fc_fc : (s.put (.fc b)).fc = b := rfl
@[simp] theorem State.put_fc_addr : (s.put (.fc b)).addr = s.addr := rfl
@[simp] theorem State.put_fc_qty : (s.put (.fc b)).qty = s.qty := rfl
@[simp] theorem State.put_fc_input : (s.put (.fc b)).input = s.input := rfl
@[simp] theorem State.put_addr_cmd : (s.put (.addr w)).cmd = s.cmd := rfl
@[simp] theorem State.put_addr_sid : (s.put (.addr w)).sid = s.sid := rfl
@[simp] theorem State.put_addr_fc : (s.put (.addr w)).fc = s.fc := rfl
@[simp] theorem State.put_addr_addr : (s.put (.addr w)).addr = w := rfl
@[simp] theorem State.put_addr_qty : (s.put (.addr w)).qty = s.qty := rfl
@[simp] theorem State.put_addr_input : (s.put (.addr w)).input = s.input := rfl
@[simp] theorem State.put_qty_cmd : (s.put (.qty w)).cmd = s.cmd := rfl
@[simp] theorem State.put_qty_sid : (s.put (.qty w)).sid = s.sid := rfl
@[simp] theorem State.put_qty_fc : (s.put (.qty w)).fc = s.fc := rfl
@[simp] theorem State.put_qty_addr : (s.put (.qty w)).addr = s.addr := rfl
@[simp] theorem State.put_qty_qty : (s.put (.qty w)).qty = w := rfl
@[simp] theorem State.put_qty_input : (s.put (.qty w)).input = s.input := rfl
@[simp] theorem State.put_input_cmd : (s.put (.input l)).cmd = s.cmd := rfl
@[simp] theorem State.put_input_sid : (s.put (.input l)).sid = s.sid := rfl
@[simp] theorem State.put_input_fc : (s.put (.input l)).fc = s.fc := rfl
@[simp] theorem State.put_input_addr : (s.put (.input l)).addr = s.addr := rfl
@[simp] theorem State.put_input_qty : (s.put (.input l)).qty = s.qty := rfl
@[simp] theorem State.put_input_input : (s.put (.input l)).input = l := rfl
end Put

end Sys2Proof.Machine
end

