-- ==== Sys2Proof/Laws/Exec.lean ====
section
/-! SUPPORT. Said once: what an instruction can do and what a step can do. -/

namespace Sys2Proof.Machine

open Sys2Proof

theorem configLegal_iff (n : Nat) : configLegal n = true ↔ 5 ≤ n :=
  decide_eq_true_iff

theorem configLegal_false_iff (n : Nat) : configLegal n = false ↔ n < 5 :=
  decide_eq_false_iff_not.trans Nat.not_le

theorem execCrc_eq (s : State) :
    execCrc s = .next (s.complete (.crc (lo8 (crc16 s.input)) (hi8 (crc16 s.input)))) := by
  unfold execCrc
  rw [crcLoop_whole]

/-- DECODE under a legal configuration ends in a value or in one of its three errors. -/
theorem execDecode_cases (s : State) (hc : 5 ≤ s.respLen) :
    ∃ r, execDecode s = .next (s.complete r) ∧
      ((∃ bits, r = .value bits ∧ s.respLen = 9) ∨ r = .err .incompleteFrame ∨
        r = .err .checksumMismatch ∨ (r = .err .malformedPayload ∧ s.respLen ≠ 9)) := by
  by_cases hl : s.input.length = s.respLen
  · obtain ⟨body, lo, hi, hin⟩ := exists_append_two s.input (by omega)
    have hlen : s.respLen = body.length + 2 := by rw [← hl, hin]; simp
    rw [execDecode_eq s body lo hi hc hin hlen]
    split
    · exact ⟨_, rfl, .inr (.inr (.inl rfl))⟩
    · split
      · exact ⟨_, rfl, .inr (.inr (.inr ⟨rfl, by omega⟩))⟩
      · exact ⟨_, rfl, .inl ⟨_, rfl, by omega⟩⟩
  · refine ⟨.err .incompleteFrame, ?_, .inr (.inl rfl)⟩
    unfold execDecode
    rw [if_neg (by rw [(configLegal_iff _).mpr hc]; simp), if_pos hl]
    rfl

theorem execDecode_illegal (s : State) (hc : s.respLen < 5) :
    execDecode s = .fault .configRefused := by
  unfold execDecode
  rw [if_pos ((configLegal_false_iff _).mpr hc)]

/-- Everything an instruction can do: it completes with a result, or it is DECODE under a refused
configuration. -/
theorem exec_cases (i : Instr) (s : State) :
    (∃ r, exec i s = .next (s.complete r)) ∨
      (i = .decode ∧ s.respLen < 5 ∧ exec i s = .fault .configRefused) := by
  cases i with
  | crc => exact .inl ⟨_, execCrc_eq s⟩
  | build =>
    left
    show ∃ r, execBuild s = _
    unfold execBuild
    rw [buildFrame_eq]
    exact ⟨_, rfl⟩
  | decode =>
    by_cases hc : 5 ≤ s.respLen
    · obtain ⟨r, hr, -⟩ := execDecode_cases s hc
      exact .inl ⟨r, hr⟩
    · exact .inr ⟨rfl, by omega, execDecode_illegal s (by omega)⟩

/-- Everything a step can do. -/
theorem step_cases (s : State) :
    (s.respLen < 5 ∧ step s = .fault .configRefused) ∨
      (5 ≤ s.respLen ∧ s.phase = .idle ∧ step s = .next s) ∨
      (5 ≤ s.respLen ∧ s.phase = .busy ∧ ∃ i, decodeCmd s.cmd = .ok i ∧ step s = exec i s) ∨
      (5 ≤ s.respLen ∧ s.phase = .busy ∧ decodeCmd s.cmd = .error (.illegalCommand s.cmd) ∧
        step s = .next (s.raiseError .illegalCommand)) := by
  unfold step blockStep
  split
  · exact .inl ⟨(configLegal_false_iff _).mp ‹_›, rfl⟩
  · have hc : 5 ≤ s.respLen := by
      rename_i h
      simpa [configLegal_false_iff] using h
    cases hp : s.phase with
    | idle => exact .inr (.inl ⟨hc, rfl, rfl⟩)
    | busy =>
      show _ ∨ _ ∨ _ ∨ _
      unfold runStarted fetch
      cases hd : decodeCmd s.cmd with
      | ok i => exact .inr (.inr (.inl ⟨hc, rfl, i, rfl, rfl⟩))
      | error e =>
        have he : e = .illegalCommand s.cmd := by
          unfold decodeCmd at hd
          split at hd
          · cases hd
          · split at hd
            · cases hd
            · split at hd
              · cases hd
              · cases hd; rfl
        subst he
        exact .inr (.inr (.inr ⟨hc, rfl, rfl, rfl⟩))

end Sys2Proof.Machine
end

