-- ==== Sys2Proof/Laws/PerInstr.lean ====
section
/-! SUPPORT. A statement made per instruction, about the instruction as syntax: its code is the one its
row of spec/opcode_table.json fixes, it is no illegal code, and the instruction is well-formed. -/

namespace Sys2Proof.Laws.CodeForm

open Sys2Proof

/-- The value the table's row fixes in bits 7 to 0. -/
def rowCode : Instr → Nat
  | .crc => 1
  | .build => 2
  | .decode => 3

/-- What is said of each instruction (R61, R71). -/
def Statement (i : Instr) : Prop :=
  (encode i).toNat = rowCode i ∧ isIllegalCode (encode i).toNat = false ∧ i.wellFormed = true

theorem crc : Statement .crc := ⟨rfl, rfl, rfl⟩

theorem build : Statement .build := ⟨rfl, rfl, rfl⟩

theorem decode : Statement .decode := ⟨rfl, rfl, rfl⟩

end Sys2Proof.Laws.CodeForm
end

