-- ==== Sys2Proof/Tests/Slice0.lean ====
section
/-! SUPPORT. The model's own tests. Expected results come from 95_test_vectors.md and from the encoding
tables of spec/; each test names its source. The witnesses at the end show, for every statement
with hypotheses, concrete data that meet them. -/

namespace Sys2Proof.Tests

open Sys2Proof Sys2Proof.Machine

/-- What RES holds after an outcome. -/
def resOf : Outcome → Option Result
  | .next s => s.res
  | .fault _ => none
  | .refused _ => none

/-- An outcome after which RES holds a result is a next state. -/
theorem next_of_resOf (o : Outcome) (r : Result) (h : resOf o = some r) :
    ∃ t, o = .next t ∧ t.res = some r := by
  cases o with
  | next t => exact ⟨t, rfl, h⟩
  | fault f => cases h
  | refused f => cases h

/-- A block with given bytes in IN. -/
def withInput (bytes : List Byte) : State := { State.reset with input := bytes }

/-- A block with given bytes in IN and another RESP_LEN. -/
def withConfig (n : Nat) (bytes : List Byte) : State :=
  { State.reset with input := bytes, respLen := n }

/-- A block with given BUILD operands. -/
def withOperands (sid fc : Byte) (addr qty : Word) : State :=
  { State.reset with sid := sid, fc := fc, addr := addr, qty := qty }

/-! ## Ill-formed commands are refused (R70, R71, R73) -/

theorem smoke_crc_wide_byte : Command.wellFormed (.crc [0, 256]) = false := by decide
theorem smoke_build_wide_sid : Command.wellFormed (.build 256 4 0 2) = false := by decide
theorem smoke_build_wide_fc : Command.wellFormed (.build 1 256 0 2) = false := by decide
theorem smoke_build_wide_addr : Command.wellFormed (.build 1 4 65536 2) = false := by decide
theorem smoke_build_wide_qty : Command.wellFormed (.build 1 4 0 65536) = false := by decide
theorem smoke_decode_wide_byte : Command.wellFormed (.decode [256]) = false := by decide
theorem smoke_illegal_is_crc : Command.wellFormed (.illegal 1) = false := by decide
theorem smoke_illegal_is_decode : Command.wellFormed (.illegal 3) = false := by decide
theorem smoke_illegal_wide : Command.wellFormed (.illegal 256) = false := by decide
theorem smoke_extremes_are_well_formed :
    (Command.build 255 255 65535 65535).wellFormed ∧ (Command.illegal 0).wellFormed ∧
      (Command.illegal 4).wellFormed ∧ (Command.crc []).wellFormed := by decide

/-! ## Decoding (R61, R65, opcode_table.json) -/

theorem test_decode_word_crc : decodeTableWord 8 0b00000001 = some .crc := by decide
theorem test_decode_word_build : decodeTableWord 8 0b00000010 = some .build := by decide
theorem test_decode_word_decode : decodeTableWord 8 0b00000011 = some .decode := by decide
theorem test_decode_word_illegal : decodeTableWord 8 0b00000100 = none := by decide
/-- R65's example. -/
theorem test_listing_build :
    decodeListing [.byte 0x02, .bar, .byte 0x01, .byte 0x04, .byte 0x00, .byte 0x00, .byte 0x00,
      .byte 0x02] = .ok (.build 1 4 0 2) := by decide
/-- The high byte of each 16-bit operand comes first (R65); the operands of V-B13. -/
theorem test_listing_byte_order :
    encodeListing (.build 0x11 0x04 0x1234 0x5678) =
      [.byte 0x02, .bar, .byte 0x11, .byte 0x04, .byte 0x12, .byte 0x34, .byte 0x56, .byte 0x78] := by
  decide
theorem test_listing_wrong_count :
    decodeListing [.byte 0x01, .bar, .count 2, .byte 0xFF] = .error .lengthMismatch := by decide

/-! ## The three commands -/

/-- V-C1. -/
theorem test_byte_step_trace : crcStep 0xFFFF 0x01 = 0x807E := by decide
/-- W1. -/
theorem test_crc_empty : resOf (exec .crc (withInput [])) = some (.crc 0xFF 0xFF) := by decide
/-- W2. -/
theorem test_crc_request_header :
    resOf (exec .crc (withInput [0x01, 0x04, 0x00, 0x00, 0x00, 0x02]))
      = some (.crc 0x71 0xCB) := by decide +kernel
/-- V-B13: the byte order of both 16-bit fields. -/
theorem test_build_byte_order :
    resOf (exec .build (withOperands 0x11 0x04 0x1234 0x5678))
      = some (.frame ⟨0x11, 0x04, 0x12, 0x34, 0x56, 0x78, 0x89, 0xAE⟩) := by decide +kernel
/-- V-B11: nothing is validated. -/
theorem test_build_all_ones :
    resOf (exec .build (withOperands 0xFF 0xFF 0xFFFF 0xFFFF))
      = some (.frame ⟨0xFF, 0xFF, 0xFF, 0xFF, 0xFF, 0xFF, 0x01, 0x94⟩) := by decide +kernel
/-- W6. -/
theorem test_decode_350 :
    resOf (exec .decode (withInput [0x01, 0x04, 0x04, 0x43, 0xAF, 0x00, 0x00, 0xDE, 0x21]))
      = some (.value 0x43AF0000) := by decide +kernel
/-- V-D4: the trailer with its bytes swapped. -/
theorem test_decode_swapped_trailer :
    resOf (exec .decode (withInput [0x01, 0x04, 0x04, 0x43, 0xAF, 0x00, 0x00, 0x21, 0xDE]))
      = some (.err .checksumMismatch) := by decide +kernel

/-! ## Steps from reset -/

/-- BUILD as the first instruction: the reset operands are zero, so the frame is V-B10's. -/
theorem test_first_step_build :
    resOf (step (State.reset.withFetchWord 8 0x02))
      = some (.frame ⟨0x00, 0x00, 0x00, 0x00, 0x00, 0x00, 0x00, 0x1B⟩) := by decide +kernel
theorem test_first_step_crc :
    resOf (step (State.reset.withFetchWord 8 0x01)) = some (.crc 0xFF 0xFF) := by decide
theorem test_first_step_decode :
    resOf (step (State.reset.withFetchWord 8 0x03)) = some (.err .incompleteFrame) := by decide
/-- V-X2. -/
theorem test_step_illegal :
    resOf (step (State.reset.withFetchWord 8 0x04)) = some (.err .illegalCommand) := by decide
/-- V-X4. -/
theorem test_status_after_reset : readStatus State.reset = .error .resultUnwritten := by decide
/-- V-X5. -/
theorem test_config_four_refused : boot 4 = .fault .configRefused := rfl
/-- P1, its first line. -/
theorem test_readreq_line :
    resOf (runCommand (readReq 0x01 0x0000) State.reset)
      = some (.frame ⟨0x01, 0x04, 0x00, 0x00, 0x00, 0x02, 0x71, 0xCB⟩) := by decide +kernel

/-! ## The engines, the binary32 reading and the host model -/

/-- V-C9, row r1. -/
theorem test_table_row : (crcTable.drop 8).take 3 = [0xC601, 0x06C0, 0x0780] := by decide
/-- V-C3, the byte `80`, on the serial engine started from other content. -/
theorem test_serial_engine : engineCrc [0x80] ⟨0x1234, 7, 3⟩ = 0xE0BE := by decide
/-- V-D2: subnormal, largest finite, infinity, quiet and signalling NaN. -/
theorem test_binary32_lines :
    readBinary32 0x00000001 = .subnormal false 1 ∧
    readBinary32 0x7F7FFFFF = .normal false 254 0x7FFFFF ∧
    readBinary32 0xFF800000 = .infinity true ∧
    readBinary32 0x7FC00000 = .nan true ∧ readBinary32 0x7F800001 = .nan false := by decide
/-- P3, row 7: the request for TotalActiveEnergy (V-B8). -/
theorem test_request_total_energy :
    requestFor 0x01 .totalActiveEnergy
      = ⟨0x01, 0x04, 0x01, 0x56, 0x00, 0x02, 0x90, 0x27⟩ := by decide +kernel
/-- P3, rows 0 and 4. -/
theorem test_measurements :
    measurementFor 9 [0x01, 0x04, 0x04, 0x43, 0x66, 0x00, 0x00, 0x0E, 0x1F]
      = some (.value 0x43660000) ∧
    measurementFor 9 [0x01, 0x04, 0x04, 0x43, 0x66] = some .unavailable := by decide +kernel

/-! ## Witnesses for the statements' hypotheses -/

/-- The frame of W6. -/
def validFrame : List Byte := [0x01, 0x04, 0x04, 0x43, 0xAF, 0x00, 0x00, 0xDE, 0x21]

/-- Its first seven bytes. -/
def validBody : List Byte := [0x01, 0x04, 0x04, 0x43, 0xAF, 0x00, 0x00]

/-- The host model at an action of the first exchange. -/
def pollingAt (pos : PollPos) (sent : List Frame) : PollState :=
  { PollState.ready State.reset 0x01 with pos := pos, sent := sent }

theorem witness_StepRunsTheStartedCommand (i : Instr) :
    let s := State.reset.withCommand (encode i).toNat
    5 ≤ s.respLen ∧ s.phase = .busy ∧ decodeCmd s.cmd = .ok i ∧ i.wellFormed = true := by
  cases i <;> decide
theorem witness_IdleBlockWaits : 5 ≤ State.reset.respLen ∧ State.reset.phase = .idle := by decide
theorem witness_IllegalCodeCompletesWithError :
    ∀ c ∈ [0x00, 0x04, 0xFF], let s := State.reset.withCommand c
      5 ≤ s.respLen ∧ s.phase = .busy ∧ s.cmd ≠ 0x01 ∧ s.cmd ≠ 0x02 ∧ s.cmd ≠ 0x03 := by decide
theorem witness_ConfigurationBelowFiveIsRefused :
    (withConfig 4 []).respLen < 5 ∧ (withConfig 0 []).respLen < 5 ∧ 5 ≤ (withConfig 5 []).respLen := by
  decide
theorem witness_StatusIsAViewOfRes :
    State.reset.res = none ∧
      ({ State.reset with res := some (.err .illegalCommand) } : State).res
        = some (.err .illegalCommand) := by decide
theorem witness_SingleBitErrorIsDetected_first :
    (withInput (flipBit validFrame 0 0)).respLen = 9 ∧ validBody.length = 7 ∧
      crc16 validBody = (BitVec.setWidth 16 (0x21 : Byte) <<< 8) ||| BitVec.setWidth 16 (0xDE : Byte) ∧
      flipBit validFrame 0 0 = flipBit (validBody ++ [0xDE, 0x21]) 0 0 := by decide +kernel
theorem witness_SingleBitErrorIsDetected_last :
    flipBit (validBody ++ [0xDE, 0x21]) 8 7
      = [0x01, 0x04, 0x04, 0x43, 0xAF, 0x00, 0x00, 0xDE, 0xA1] := by decide
theorem witness_DecodeWrongLength :
    5 ≤ (withInput []).respLen ∧ (withInput []).input.length ≠ (withInput []).respLen ∧
      (withInput (validFrame ++ [0x00])).input.length ≠ (withInput (validFrame ++ [0x00])).respLen := by
  decide
/-- V-D9, third line: the frame of W6 under RESP_LEN 11. -/
theorem witness_DecodeReportsTheFirstFailingCheck_length :
    let s := withConfig 11 (validBody ++ [0xDE, 0x21])
    5 ≤ s.respLen ∧ s.input.length ≠ s.respLen := by decide
/-- V-D10: the trailer is wrong and the payload has 6 bytes. -/
theorem witness_DecodeReportsTheFirstFailingCheck_checksum :
    let body : List Byte := [0x01, 0x04, 0x06, 0x43, 0xAF, 0x00, 0x00, 0x00, 0x00]
    let s := withConfig 11 (body ++ [0x00, 0x00])
    5 ≤ s.respLen ∧ s.input.length = s.respLen ∧ crc16 body ≠ 0x0000 := by decide +kernel
/-- V-D9: the least configuration, no payload. -/
theorem witness_DecodeReportsTheFirstFailingCheck_payload :
    let body : List Byte := [0x01, 0x04, 0x00]
    let s := withConfig 5 (body ++ [0x22, 0xC0])
    5 ≤ s.respLen ∧ s.input.length = s.respLen ∧ crc16 body = 0xC022 ∧ s.respLen - 5 ≠ 4 := by
  decide +kernel
theorem witness_DecodeReportsTheFirstFailingCheck_value :
    let s := withConfig 9 (validBody ++ [0xDE, 0x21])
    5 ≤ s.respLen ∧ s.input.length = s.respLen ∧ crc16 validBody = 0x21DE ∧ s.respLen - 5 = 4 := by
  decide +kernel
theorem witness_DecodeReturnsEveryPayloadUnchanged :
    let w : Bits32 := 0x43AF0000
    let body : List Byte := [0x01, 0x04, 0x04, w.extractLsb' 24 8, w.extractLsb' 16 8,
      w.extractLsb' 8 8, w.extractLsb' 0 8]
    (withInput (body ++ [0xDE, 0x21])).respLen = 9 ∧ body = validBody ∧ crc16 body = 0x21DE := by
  decide +kernel
theorem witness_MalformedPayloadUnreachableAtNine : (withInput validFrame).respLen = 9 := rfl
theorem witness_ValueOnlyFromAValidFrame :
    ∃ t, exec .decode (withInput validFrame) = .next t ∧ t.res = some (.value 0x43AF0000) :=
  next_of_resOf _ _ (by decide +kernel)
/-- For `CommandsChangeOnlyResAndPhase` and `RepeatingACommandChangesNothing`. -/
theorem witness_CommandsChangeOnlyResAndPhase (i : Instr) : ∃ t, exec i State.reset = .next t := by
  cases i
  · exact ⟨_, rfl⟩
  · exact ⟨_, rfl⟩
  · exact ⟨_, rfl⟩
theorem witness_StepsNeverWriteThePorts :
    ∃ t, step (State.reset.withCommand 0x03) = .next t := ⟨_, rfl⟩
theorem witness_ResultDependsOnNamedOperandsAlone (i : Instr) :
    sameOperands i State.reset { State.reset with res := some (.crc 0 0), cmd := 0x7F } ∧
      ∃ t, exec i State.reset = .next t := by
  refine ⟨?_, witness_CommandsChangeOnlyResAndPhase i⟩
  cases i
  · exact rfl
  · exact ⟨rfl, rfl, rfl, rfl⟩
  · exact ⟨rfl, rfl⟩
theorem witness_EveryStartedCommandCompletes :
    5 ≤ (State.reset.withCommand 0x7F).respLen ∧ (State.reset.withCommand 0x7F).phase = .busy := by
  decide
theorem witness_StepKeepsTheBlockSound :
    (State.reset.withCommand 0x02).inv = true ∧
      ∃ t, step (State.reset.withCommand 0x02) = .next t := ⟨by decide, _, rfl⟩
theorem witness_ResetStateIsSound : ∃ t, boot 5 = .next t := ⟨_, rfl⟩
theorem witness_HostMovesKeepTheBlockSound :
    State.reset.inv = true ∧ (∃ t, writePort (.sid 0xFF) State.reset = .next t) ∧
      (∃ t, start State.reset = .next t) ∧ ∃ t, runCommand (.illegal 0) State.reset = .next t :=
  ⟨by decide, ⟨_, rfl⟩, ⟨_, rfl⟩, _, rfl⟩
theorem witness_MemReadInsideAndPastTheEnd :
    validFrame[8]? = some 0x21 ∧ validFrame.length < 8 + 2 ∧ validFrame.length < 10 + 0 := by decide
theorem witness_BusyBlockTakesNoMove :
    (State.reset.withCommand 0x01).phase = .busy ∧ (Command.crc [255]).wellFormed = true := by decide
theorem witness_OverwideOperandsAreRefused_build :
    ∀ p ∈ ([(256, 0, 0, 0), (0, 256, 0, 0), (0, 0, 65536, 0), (0, 0, 0, 65536)]
        : List (Nat × Nat × Nat × Nat)),
      256 ≤ p.1 ∨ 256 ≤ p.2.1 ∨ 65536 ≤ p.2.2.1 ∨ 65536 ≤ p.2.2.2 := by decide
theorem witness_OverwideOperandsAreRefused_bytes : ∃ n ∈ ([0, 256] : List Nat), 256 ≤ n :=
  ⟨256, by decide, by decide⟩
/-- For `WrittenCommandRunsToCompletion` and `ListingRoundTrip`: each form at a bound of its range. -/
theorem witness_WrittenCommandRunsToCompletion :
    (∀ c ∈ [Command.crc [], .build 255 255 65535 65535, .decode [255], .illegal 0, .illegal 4,
      .illegal 255], c.wellFormed = true) ∧
      5 ≤ State.reset.respLen ∧ State.reset.phase = .idle := by decide
theorem witness_ListingHasOneMeaning :
    decodeListing [.byte 0x03, .bar, .count 1, .byte 0xFF] = .ok (.decode [255]) := by decide
theorem witness_ReadReqBuildsTheRequest : 5 ≤ State.reset.respLen ∧ State.reset.phase = .idle := by
  decide
theorem witness_InstancesShareNothing :
    [State.reset, State.reset.withCommand 0x01][1]? = some (State.reset.withCommand 0x01) ∧
      (∃ t, step (State.reset.withCommand 0x01) = .next t) ∧
      ∃ a, stepInstance 1 [State.reset, State.reset.withCommand 0x01] = .next a :=
  ⟨rfl, ⟨_, rfl⟩, _, rfl⟩
theorem witness_Binary32ReadingLosesNothing (q : Bool) :
    readBinary32 0x43AF0000 ≠ .nan q := by cases q <;> decide
theorem witness_PollStepKeepsTheCycleSound : (PollState.ready State.reset 0x01).inv :=
  ⟨by decide, rfl, rfl, .inl ⟨rfl, rfl⟩⟩
/-- For `CycleStartsFresh` (a running cycle), `ExchangeRecordsWhatWasRead` and
`CycleAttemptsAllEight`. -/
theorem witness_ExchangeRecordsWhatWasRead :
    (pollingAt (.build .voltage) []).inv ∧ (pollingAt (.build .voltage) []).pos = .build .voltage ∧
      (pollingAt (.build .voltage) []).pos.between = false :=
  ⟨⟨by decide, rfl, by decide, rfl, rfl⟩, rfl, rfl⟩
/-- The last exchange, after which the set is handed on. -/
theorem witness_ExchangeRecordsWhatWasRead_last :
    let q := Quantity.totalActiveEnergy
    let h := { pollingAt (.build q) (q.before.map (requestFor 0x01)) with
      results := q.before.map fun p => (p, Measurement.unavailable) }
    h.inv ∧ h.pos = .build q ∧ q.next? = none :=
  ⟨⟨by decide, rfl, by decide, rfl, rfl⟩, rfl, rfl⟩
theorem witness_CycleStartsFresh :
    (PollState.ready State.reset 0x01).pos.between = true := rfl
theorem witness_CycleAttemptsAllEight :
    (List.replicate 48 (Draw.mk true true [])).length = 48 ∧
      ∀ d ∈ List.replicate 48 (Draw.mk true true []), d.writeOk = true ∧ d.readOk = true := by decide
theorem witness_TransportFaultEndsTheCycle_write :
    (pollingAt (.write .voltage (requestFor 0x01 .voltage)) []).inv ∧
      (Draw.mk false true []).writeOk = false :=
  ⟨⟨by decide, rfl, ⟨by decide, rfl, rfl⟩, rfl⟩, rfl⟩
theorem witness_TransportFaultEndsTheCycle_read :
    (pollingAt (.read .voltage) [requestFor 0x01 .voltage]).inv ∧
      (Draw.mk true false []).readOk = false :=
  ⟨⟨by decide, rfl, by decide, rfl, rfl⟩, rfl⟩
theorem witness_UnavailableUnlessAValidFrame :
    measurementFor 9 validFrame = some (.value 0x43AF0000) ∧ ([] : List Byte).length ≠ 5 := by
  decide +kernel

/-! ## Several pollers on one transport -/

/-- Two pollers, each with its own block, on a transport no poll has used. -/
def twoPollers : BusState :=
  BusState.ready [PollState.ready State.reset 0x01, PollState.ready State.reset 0x02]

/-- The second one awaits its first response. -/
def secondAwaits : BusState where
  pollers := [PollState.ready State.reset 0x01,
    pollingAt (.read .voltage) [requestFor 0x01 .voltage]]
  holder := some 1
  traffic := [.request 1 (requestFor 0x01 .voltage)]

/-- R181's own words: an exchange is in flight, so the other poller starts none. -/
theorem test_second_poll_is_refused :
    busPollAll 0 0x02 secondAwaits = .refused .cycleRunning := rfl
/-- Two requests in a row overlap; a response to another poller is misattributed (R181). -/
theorem test_overlap_is_told :
    let f := requestFor 0x01 .voltage
    inFlightAfter [.request 0 f, .request 1 f] = none ∧
      inFlightAfter [.request 0 f, .response 1 []] = none ∧
      inFlightAfter [.request 0 f, .response 0 [], .request 1 f] = some (some 1) := by decide

theorem secondAwaits_inv : secondAwaits.inv := by
  have i0 : (PollState.ready State.reset 0x01).inv := witness_PollStepKeepsTheCycleSound
  have i1 : (pollingAt (.read .voltage) [requestFor 0x01 .voltage]).inv :=
    witness_TransportFaultEndsTheCycle_read.1
  refine ⟨?_, ?_, ?_, rfl, ?_⟩
  · intro h hm
    rcases List.mem_pair.mp hm with rfl | rfl
    · exact i0
    · exact i1
  · intro k hk
    cases hk
    exact Nat.one_lt_two
  · intro k h hk
    match k, hk with
    | 0, hk => cases hk; decide
    | 1, hk => cases hk; decide
  · intro k h hk
    match k, hk with
    | 0, hk => cases hk; exact trivial
    | 1, hk => cases hk; exact rfl
theorem witness_BusStepKeepsPollsSerialised : secondAwaits.inv ∧ secondAwaits.holder = some 1 :=
  ⟨secondAwaits_inv, rfl⟩
theorem witness_ReadyBusIsSound :
    ∀ h ∈ twoPollers.pollers, h.inv ∧ h.pos.between = true := by
  intro h hm
  rcases List.mem_pair.mp hm with rfl | rfl
  · exact ⟨witness_PollStepKeepsTheCycleSound, rfl⟩
  · exact ⟨⟨by decide, rfl, rfl, .inl ⟨rfl, rfl⟩⟩, rfl⟩
theorem twoPollers_inv : twoPollers.inv := by
  refine ⟨fun h hm => (witness_ReadyBusIsSound h hm).1, ?_, ?_, rfl, ?_⟩
  · intro k hk
    cases hk
  · intro k h hk
    match k, hk with
    | 0, hk => cases hk; decide
    | 1, hk => cases hk; decide
  · intro k h hk
    match k, hk with
    | 0, hk => cases hk; exact trivial
    | 1, hk => cases hk; exact trivial
/-- Each clause: a poll runs; the first and the last place of a free transport; the place past the last. -/
theorem witness_PollsStartOneAtATime :
    (secondAwaits.inv ∧ secondAwaits.holder = some 1) ∧
      twoPollers.inv ∧ twoPollers.holder = none ∧ twoPollers.pollers[0]?.isSome = true ∧
      twoPollers.pollers[1]?.isSome = true ∧ twoPollers.pollers.length ≤ 2 :=
  ⟨witness_BusStepKeepsPollsSerialised, twoPollers_inv, rfl, rfl, rfl, by decide⟩
/-- A step after which the poll runs on, one after which it has ended, and a free transport. -/
theorem witness_BusStepMovesTheHolderAlone :
    let h := pollingAt (.read .voltage) [requestFor 0x01 .voltage]
    secondAwaits.holder = some 1 ∧ secondAwaits.pollers[1]? = some h ∧
      (∃ t, pollStep ⟨true, true, []⟩ h = .next t ∧ t.pos.between = false) ∧
      (∃ t, pollStep ⟨true, false, []⟩ h = .next t ∧ t.pos.between = true) ∧
      twoPollers.holder = none :=
  ⟨rfl, rfl, ⟨_, rfl, rfl⟩, ⟨_, rfl, rfl⟩, rfl⟩
/-- With `witness_CycleAttemptsAllEight` for the 48 answers. -/
theorem witness_PollOnAFreeTransportCompletes :
    twoPollers.inv ∧ twoPollers.holder = none ∧
      twoPollers.pollers[1]? = some (PollState.ready State.reset 0x02) :=
  ⟨twoPollers_inv, rfl, rfl⟩

end Sys2Proof.Tests
end

section
/-! Configuration, buffer reads, instances and the shared transport: how each moves and what it leaves
alone (rules R7, R9, R11, R26, R43, R181, R211). -/

namespace Sys2Proof.Machine

open Sys2Proof

/-! ## Configuration -/

theorem boot_legal (n : Nat) (hn : 5 ≤ n) : boot n = .next { State.reset with respLen := n } :=
  if_pos ((configLegal_iff n).mpr hn)

theorem boot_refused (n : Nat) (hn : n < 5) : boot n = .fault .configRefused :=
  if_neg (by simp [(configLegal_false_iff n).mpr hn])

theorem step_configRefused (s : State) (hc : s.respLen < 5) : step s = .fault .configRefused :=
  if_pos ((configLegal_false_iff s.respLen).mpr hc)

/-- Settles O6: `configLegal` decides the bound 5, and `boot`, `step` and DECODE look at it first. -/
theorem configurationBelowFiveIsRefused : Obligations.ConfigurationBelowFiveIsRefused :=
  ⟨boot_legal, boot_refused, boot_legal 9 (by decide),
    fun s hc => ⟨step_configRefused s hc, execDecode_illegal s hc⟩⟩

/-! ## Reads of the input buffer -/

/-- Settles O34: the two cases of `memRead`, the one byte read being the one the buffer holds. -/
theorem memReadInsideAndPastTheEnd : Obligations.MemReadInsideAndPastTheEnd := by
  intro buf a
  constructor
  · intro b hb
    obtain ⟨ha, rfl⟩ := List.getElem?_eq_some_iff.mp hb
    exact memRead_one buf a ha
  · intro n hn
    obtain ⟨hin, -⟩ | ⟨-, hout⟩ := memRead_cases buf a n
    · omega
    · exact hout

/-! ## Several blocks side by side -/

/-- A block's step within the list is its own step, put back in its place or stopping as it stops. -/
theorem stepInstance_of_getElem? (k : Nat) (blocks : List State) (s : State)
    (hk : blocks[k]? = some s) :
    (∃ t, step s = .next t ∧ stepInstance k blocks = .next (blocks.set k t)) ∨
      (∃ f, step s = .fault f ∧ stepInstance k blocks = .fault f) ∨
      (∃ r, step s = .refused r ∧ stepInstance k blocks = .refused r) := by
  unfold stepInstance
  simp only [hk]
  cases step s with
  | next t => exact .inl ⟨t, rfl, rfl⟩
  | fault f => exact .inr (.inl ⟨f, rfl, rfl⟩)
  | refused r => exact .inr (.inr ⟨r, rfl, rfl⟩)

theorem stepInstance_of_none (k : Nat) (blocks : List State) (hk : blocks[k]? = none) :
    stepInstance k blocks = .next blocks := by
  unfold stepInstance
  simp only [hk]

/-- When the list goes on, either nothing moved or the place `k` alone was replaced. -/
theorem stepInstance_next_cases (k : Nat) (blocks after : List State)
    (h : stepInstance k blocks = .next after) : after = blocks ∨ ∃ t, after = blocks.set k t := by
  cases hk : blocks[k]? with
  | none =>
    rw [stepInstance_of_none k blocks hk] at h
    cases h
    exact .inl rfl
  | some s =>
    obtain ⟨t, -, e⟩ | ⟨f, -, e⟩ | ⟨r, -, e⟩ := stepInstance_of_getElem? k blocks s hk <;>
      rw [e] at h <;> cases h
    exact .inr ⟨t, rfl⟩

/-- Settles O41: a step of the list replaces at most the state at its own place. -/
theorem instancesShareNothing : Obligations.InstancesShareNothing := by
  intro blocks k
  constructor
  · intro s t hk ht
    obtain ⟨t', ht', e⟩ | ⟨f, hf, -⟩ | ⟨r, hr, -⟩ := stepInstance_of_getElem? k blocks s hk
    · cases ht.symm.trans ht'
      exact e
    · cases ht.symm.trans hf
    · cases ht.symm.trans hr
  · intro after h
    obtain rfl | ⟨t, rfl⟩ := stepInstance_next_cases k blocks after h
    · exact ⟨rfl, fun _ _ => rfl⟩
    · exact ⟨List.length_set, fun j hj => List.getElem?_set_ne hj.symm⟩

/-! ## Several pollers on one transport -/

theorem busStep_free (d : Draw) (b : BusState) (hb : b.holder = none) : busStep d b = .next b := by
  obtain ⟨-, e⟩ | ⟨k, hk, -⟩ | ⟨k, h, hk, -⟩ := busStep_cases d b
  · exact e
  · cases hb.symm.trans hk
  · cases hb.symm.trans hk

/-- The step of the bus is the move of the poller that holds it. -/
theorem busStep_held (d : Draw) (b : BusState) (k : Nat) (h h' : PollState)
    (hb : b.holder = some k) (hk : b.pollers[k]? = some h) (hs : pollStep d h = .next h') :
    busStep d b = .next (b.moved k h' (busTraffic d k h)) := by
  obtain ⟨hn, -⟩ | ⟨j, hj, hn, -⟩ | ⟨j, x, hj, hx, e⟩ := busStep_cases d b
  · cases hb.symm.trans hn
  · cases hb.symm.trans hj
    cases hk.symm.trans hn
  · cases hb.symm.trans hj
    cases hk.symm.trans hx
    rw [e, hs]
    rfl

theorem BusState.moved_holder_eq_none_iff (b : BusState) (k : Nat) (h : PollState)
    (events : List BusEvent) :
    (b.moved k h events).holder = none ↔ h.pos.between = true := by
  simp

theorem BusState.eq_of_moved_holder (b : BusState) (k j : Nat) (h : PollState)
    (events : List BusEvent) (hj : (b.moved k h events).holder = some j) : j = k := by
  cases hp : h.pos.between with
  | true => simp [hp] at hj
  | false => simpa [hp] using hj.symm

/-- Settles O53: the next state is the bus with the holder moved. -/
theorem busStepMovesTheHolderAlone : Obligations.BusStepMovesTheHolderAlone := by
  intro d b
  refine ⟨fun k h h' hb hk hs => ⟨b.moved k h' (busTraffic d k h), ?_, ?_, ?_, ?_, ?_⟩,
    busStep_free d b⟩
  · exact busStep_held d b k h h' hb hk hs
  · exact b.moved_self k h' _ (List.getElem?_eq_some_iff.mp hk).1
  · exact fun j hj => b.moved_other k j h' _ hj
  · exact b.moved_holder_eq_none_iff k h' _
  · exact fun j hj => b.eq_of_moved_holder k j h' _ hj

end Sys2Proof.Machine
end

section
/-! The block's state: what a command and a step leave unchanged, the invariant they and the host's moves
keep, what a result depends on, and the bit-serial CRC engine (rules R22, R26, R28 to R31, R43, R104,
R143, R200, R230, R232). -/

namespace Sys2Proof.Machine

open Sys2Proof

/-! ## The result of each command -/

/-- A frame BUILD puts together carries the CRC of its own header (R104). -/
theorem buildFrame_selfConsistent (sid fc : Byte) (addr qty : Word) (f : Frame)
    (h : buildFrame sid fc addr qty = .ok f) :
    crc16 f.headerBytes = joinWord f.crcHi f.crcLo := by
  rw [buildFrame_eq] at h
  cases h
  exact (joinWord_split _).symm

theorem exists_execBuild_eq (s : State) :
    ∃ f, buildFrame s.sid s.fc s.addr s.qty = .ok f ∧ execBuild s = .next (s.complete (.frame f)) := by
  refine ⟨_, buildFrame_eq s.sid s.fc s.addr s.qty, ?_⟩
  unfold execBuild
  rw [buildFrame_eq]

theorem execDecode_wrongLength (s : State) (hc : 5 ≤ s.respLen) (hl : s.input.length ≠ s.respLen) :
    execDecode s = .next (s.complete (.err .incompleteFrame)) := by
  unfold execDecode
  rw [if_neg (by simp [(configLegal_iff _).mpr hc]), if_pos hl]
  rfl

/-- Under a legal configuration every instruction completes, and with a sound result. -/
theorem exec_completes_sound (i : Instr) (s : State) (hc : 5 ≤ s.respLen) :
    ∃ r, exec i s = .next (s.complete r) ∧ resultSound s.respLen (some r) = true := by
  cases i with
  | crc => exact ⟨_, execCrc_eq s, rfl⟩
  | build =>
    obtain ⟨f, hf, he⟩ := exists_execBuild_eq s
    exact ⟨_, he, decide_eq_true (buildFrame_selfConsistent _ _ _ _ f hf)⟩
  | decode =>
    obtain ⟨r, he, hr⟩ := execDecode_cases s hc
    refine ⟨r, he, ?_⟩
    obtain ⟨_, rfl, h9⟩ | rfl | rfl | ⟨rfl, h9⟩ := hr
    · exact decide_eq_true h9
    · rfl
    · rfl
    · exact decide_eq_true h9

/-- When an instruction answers a next state, that state is the old one with a result in RES. -/
theorem exec_next (i : Instr) (s t : State) (h : exec i s = .next t) : ∃ r, t = s.complete r := by
  obtain ⟨r, he⟩ | ⟨-, -, he⟩ := exec_cases i s
  · exact ⟨r, Host.Outcome.next.inj (h.symm.trans he)⟩
  · cases h.symm.trans he

/-- Settles O26: the next state is `s.complete r`. -/
theorem commandsChangeOnlyResAndPhase : Obligations.CommandsChangeOnlyResAndPhase := by
  intro i s t h
  obtain ⟨r, rfl⟩ := exec_next i s t h
  exact ⟨rfl, rfl, rfl, rfl, rfl, rfl, rfl, rfl, rfl⟩

/-! ## One step -/

/-- A started command completes in its step, whatever its code, and with a sound result. -/
theorem step_busy_completes (s : State) (hc : 5 ≤ s.respLen) (hp : s.phase = .busy) :
    ∃ r, step s = .next (s.complete r) ∧ resultSound s.respLen (some r) = true := by
  obtain ⟨hlow, -⟩ | ⟨-, hidle, -⟩ | ⟨-, -, i, -, he⟩ | ⟨-, -, -, he⟩ := step_cases s
  · omega
  · cases hp.symm.trans hidle
  · rw [he]
    exact exec_completes_sound i s hc
  · exact ⟨_, he, rfl⟩

/-- When a step answers a next state, either the block waited or it completed with a sound result. -/
theorem step_next (s t : State) (h : step s = .next t) :
    t = s ∨ ∃ r, t = s.complete r ∧ resultSound s.respLen (some r) = true := by
  by_cases hc : 5 ≤ s.respLen
  · cases hp : s.phase with
    | idle =>
      obtain ⟨hlow, -⟩ | ⟨-, -, he⟩ | ⟨-, hbusy, -⟩ | ⟨-, hbusy, -⟩ := step_cases s
      · omega
      · exact .inl (Host.Outcome.next.inj (h.symm.trans he))
      · cases hp.symm.trans hbusy
      · cases hp.symm.trans hbusy
    | busy =>
      obtain ⟨r, he, hr⟩ := step_busy_completes s hc hp
      exact .inr ⟨r, Host.Outcome.next.inj (h.symm.trans he), hr⟩
  · cases h.symm.trans (step_configRefused s (by omega))

/-- Settles O30: a started command completes whatever CMD holds. -/
theorem everyStartedCommandCompletes : Obligations.EveryStartedCommandCompletes := by
  intro s hc hp
  obtain ⟨r, he, -⟩ := step_busy_completes s hc hp
  exact ⟨s.complete r, he, rfl, rfl⟩

/-- Settles O27: a step waits or completes, and completing writes RES and the phase alone. -/
theorem stepsNeverWriteThePorts : Obligations.StepsNeverWriteThePorts := by
  intro s t h
  obtain rfl | ⟨r, rfl, -⟩ := step_next s t h
  · exact ⟨rfl, rfl, rfl, rfl, rfl, rfl, rfl⟩
  · exact ⟨rfl, rfl, rfl, rfl, rfl, rfl, rfl⟩

/-- Settles O3: of the four cases of `step_cases` only the one of a legal code fits. -/
theorem stepRunsTheStartedCommand : Obligations.StepRunsTheStartedCommand := by
  intro s i hc hp hd _
  obtain ⟨hlow, -⟩ | ⟨-, hidle, -⟩ | ⟨-, -, j, hj, he⟩ | ⟨-, -, hill, -⟩ := step_cases s
  · omega
  · cases hp.symm.trans hidle
  · cases hd.symm.trans hj
    exact he
  · cases hd.symm.trans hill

/-! ## The invariant of the block -/

theorem State.inv_iff (s : State) :
    s.inv = true ↔ 5 ≤ s.respLen ∧ resultSound s.respLen s.res = true := by
  rw [State.inv, Bool.and_eq_true, configLegal_iff]

/-- The invariant looks at RES and RESP_LEN only. -/
theorem State.inv_of_eq {s t : State} (hs : s.inv = true) (hres : t.res = s.res)
    (hlen : t.respLen = s.respLen) : t.inv = true := by
  rw [State.inv_iff] at hs ⊢
  rwa [hres, hlen]

theorem State.inv_of_res_eq_none {s : State} (hc : 5 ≤ s.respLen) (hres : s.res = none) :
    s.inv = true := by
  rw [State.inv_iff, hres]
  exact ⟨hc, rfl⟩

theorem step_inv {s t : State} (hs : s.inv = true) (h : step s = .next t) : t.inv = true := by
  obtain rfl | ⟨r, rfl, hr⟩ := step_next s t h
  · exact hs
  · obtain ⟨hc, -⟩ := s.inv_iff.mp hs
    exact (State.inv_iff _).mpr ⟨hc, hr⟩

/-- Settles O31: a step waits or completes with a sound result. -/
theorem stepKeepsTheBlockSound : Obligations.StepKeepsTheBlockSound :=
  fun _ _ => step_inv

/-- Settles O32: RES is empty after reset and after boot, and boot takes legal configurations only. -/
theorem resetStateIsSound : Obligations.ResetStateIsSound := by
  constructor
  · exact State.inv_of_res_eq_none (by decide) rfl
  · intro n t h
    by_cases hn : 5 ≤ n
    · cases h.symm.trans (boot_legal n hn)
      exact State.inv_of_res_eq_none hn rfl
    · cases h.symm.trans (boot_refused n (by omega))

/-! ## The host's moves -/

theorem writePort_idle (p : PortWrite) (s : State) (hp : s.phase = .idle) :
    writePort p s = .next (s.put p) := by
  unfold writePort
  rw [hp]

theorem writePort_busy (p : PortWrite) (s : State) (hp : s.phase = .busy) :
    writePort p s = .refused .portBusy := by
  unfold writePort
  rw [hp]

theorem start_idle (s : State) (hp : s.phase = .idle) : start s = .next { s with phase := .busy } := by
  unfold start
  rw [hp]

theorem start_busy (s : State) (hp : s.phase = .busy) : start s = .refused .portBusy := by
  unfold start
  rw [hp]

theorem issue_overwide (c : Command) (s : State) (hc : c.wellFormed = false) :
    issue c s = .refused .operandRange :=
  if_pos hc

theorem issue_idle (c : Command) (s : State) (hc : c.wellFormed = true) (hp : s.phase = .idle) :
    issue c s = .next
      { ((operandWrites c).foldl State.put s).put (.cmd (commandCode c)) with phase := .busy } := by
  unfold issue
  rw [if_neg (by simp [hc]), hp]

theorem issue_busy (c : Command) (s : State) (hc : c.wellFormed = true) (hp : s.phase = .busy) :
    issue c s = .refused .portBusy := by
  unfold issue
  rw [if_neg (by simp [hc]), hp]

@[simp] theorem foldl_put_res (ps : List PortWrite) (s : State) :
    (ps.foldl State.put s).res = s.res := by
  induction ps generalizing s with
  | nil => rfl
  | cons p ps ih => rw [List.foldl_cons, ih, State.put_res]

@[simp] theorem foldl_put_respLen (ps : List PortWrite) (s : State) :
    (ps.foldl State.put s).respLen = s.respLen := by
  induction ps generalizing s with
  | nil => rfl
  | cons p ps ih => rw [List.foldl_cons, ih, State.put_respLen]

theorem resetBlock_inv {s : State} (hs : s.inv = true) : (resetBlock s).inv = true :=
  State.inv_of_res_eq_none (s.inv_iff.mp hs).1 rfl

theorem writePort_inv {p : PortWrite} {s t : State} (hs : s.inv = true)
    (h : writePort p s = .next t) : t.inv = true := by
  cases hp : s.phase with
  | idle =>
    cases h.symm.trans (writePort_idle p s hp)
    exact State.inv_of_eq hs (s.put_res p) (s.put_respLen p)
  | busy => cases h.symm.trans (writePort_busy p s hp)

theorem start_inv {s t : State} (hs : s.inv = true) (h : start s = .next t) : t.inv = true := by
  cases hp : s.phase with
  | idle =>
    cases h.symm.trans (start_idle s hp)
    exact State.inv_of_eq hs rfl rfl
  | busy => cases h.symm.trans (start_busy s hp)

theorem issue_inv {c : Command} {s t : State} (hs : s.inv = true) (h : issue c s = .next t) :
    t.inv = true := by
  cases hc : c.wellFormed with
  | false => cases h.symm.trans (issue_overwide c s hc)
  | true =>
    cases hp : s.phase with
    | idle =>
      cases h.symm.trans (issue_idle c s hc hp)
      exact State.inv_of_eq hs (by simp) (by simp)
    | busy => cases h.symm.trans (issue_busy c s hc hp)

/-- A written command that runs is one the block took, followed by its step. -/
theorem runCommand_next {c : Command} {s t : State} (h : runCommand c s = .next t) :
    ∃ u, issue c s = .next u ∧ step u = .next t := by
  unfold runCommand at h
  split at h
  · exact ⟨_, ‹_›, h⟩
  · cases h
  · cases h

/-- Settles O33: reset empties RES, the writes and the start leave RES and RESP_LEN alone, and a written
command ends in a step. -/
theorem hostMovesKeepTheBlockSound : Obligations.HostMovesKeepTheBlockSound := by
  intro s hs
  refine ⟨resetBlock_inv hs, fun _ _ => writePort_inv hs, fun _ => start_inv hs, ?_⟩
  intro c t h
  obtain ⟨u, hu, ht⟩ := runCommand_next h
  exact step_inv (issue_inv hs hu) ht

/-- Settles O35: each of the three moves looks at the phase. -/
theorem busyBlockTakesNoMove : Obligations.BusyBlockTakesNoMove :=
  fun s p c hp hc => ⟨writePort_busy p s hp, start_busy s hp, issue_busy c s hc hp⟩

/-! ## What the host reads -/

theorem readRes_none (s : State) (h : s.res = none) : readRes s = .error .resultUnwritten := by
  unfold readRes
  rw [h]

theorem readRes_some (s : State) (r : Result) (h : s.res = some r) : readRes s = .ok r := by
  unfold readRes
  rw [h]

theorem readStatus_none (s : State) (h : s.res = none) :
    readStatus s = .error .resultUnwritten := by
  unfold readStatus
  rw [readRes_none s h]

theorem readStatus_some (s : State) (r : Result) (h : s.res = some r) :
    readStatus s = .ok r.status := by
  unfold readStatus
  rw [readRes_some s r h]

/-- Settles O8: STATUS reads through RES, and `Result.status` is the table of R200. -/
theorem statusIsAViewOfRes : Obligations.StatusIsAViewOfRes := by
  refine ⟨fun s h => ⟨readRes_none s h, readStatus_none s h⟩,
    fun s r h => ⟨readRes_some s r h, (readStatus_some s r h).trans ?_⟩⟩
  cases r with
  | crc lo hi => rfl
  | frame f => rfl
  | value bits => rfl
  | err e => cases e <;> rfl

/-! ## What a result depends on -/

/-- Under a legal configuration DECODE's result is a function of IN and RESP_LEN. -/
theorem execDecode_congr (s s' : State) (hin : s.input = s'.input) (hlen : s.respLen = s'.respLen)
    (hc : 5 ≤ s.respLen) :
    ∃ r, execDecode s = .next (s.complete r) ∧ execDecode s' = .next (s'.complete r) := by
  by_cases hl : s.input.length = s.respLen
  · obtain ⟨body, lo, hi, hbody⟩ := exists_append_two s.input (by omega)
    have hbodyLen : s.respLen = body.length + 2 := by rw [← hl, hbody]; simp
    rw [execDecode_eq s body lo hi hc hbody hbodyLen,
      execDecode_eq s' body lo hi (hlen ▸ hc) (hin ▸ hbody) (hlen ▸ hbodyLen)]
    split
    · exact ⟨_, rfl, rfl⟩
    · split
      · exact ⟨_, rfl, rfl⟩
      · exact ⟨_, rfl, rfl⟩
  · exact ⟨_, execDecode_wrongLength s hc hl,
      execDecode_wrongLength s' (hlen ▸ hc) (by rwa [← hin, ← hlen])⟩

/-- Settles O28: CRC is a function of IN, BUILD of its four operands, DECODE of IN and RESP_LEN. -/
theorem resultDependsOnNamedOperandsAlone : Obligations.ResultDependsOnNamedOperandsAlone := by
  intro i s s' t hsame h
  suffices hr : ∃ r, exec i s = .next (s.complete r) ∧ exec i s' = .next (s'.complete r) by
    obtain ⟨r, he, he'⟩ := hr
    cases h.symm.trans he
    exact ⟨_, he', rfl⟩
  cases i with
  | crc =>
    have hin : s.input = s'.input := hsame
    exact ⟨_, execCrc_eq s, hin ▸ execCrc_eq s'⟩
  | build =>
    obtain ⟨hsid, hfc, haddr, hqty⟩ := hsame
    obtain ⟨f, hf, he⟩ := exists_execBuild_eq s
    obtain ⟨f', hf', he'⟩ := exists_execBuild_eq s'
    rw [hsid, hfc, haddr, hqty] at hf
    cases hf.symm.trans hf'
    exact ⟨_, he, he'⟩
  | decode =>
    obtain ⟨hin, hlen⟩ := hsame
    by_cases hc : 5 ≤ s.respLen
    · exact execDecode_congr s s' hin hlen hc
    · cases h.symm.trans (execDecode_illegal s (by omega))

/-! ## The bit-serial engine -/

theorem engineTick_of_getElem? (s : List Byte) (b : Byte) (a : Word) (i : Nat) (k : Fin 8)
    (h : s[i]? = some b) :
    engineTick s ⟨a, i, k⟩ =
      ⟨crcRound (if k = 0 then a ^^^ zext16 b else a), if k = 7 then i + 1 else i, k + 1⟩ := by
  unfold engineTick
  simp only [h]

theorem engineTick_past (s : List Byte) (e : Engine) (h : s.length ≤ e.i) : engineTick s e = e := by
  unfold engineTick
  rw [List.getElem?_eq_none h]

theorem engineRun_past (s : List Byte) (n : Nat) (e : Engine) (h : s.length ≤ e.i) :
    engineRun s n e = e := by
  induction n with
  | zero => rfl
  | succ n ih => rw [engineRun, engineTick_past s e h, ih]

theorem engineRun_add (s : List Byte) (m n : Nat) (e : Engine) :
    engineRun s (m + n) e = engineRun s n (engineRun s m e) := by
  induction m generalizing e with
  | zero => rw [Nat.zero_add, engineRun]
  | succ m ih => rw [Nat.succ_add, engineRun, engineRun, ih]

/-- Eight ticks from `k = 0` are one byte step (R101). -/
theorem engineRun_byte (s : List Byte) (b : Byte) (a : Word) (i : Nat) (h : s[i]? = some b) :
    engineRun s 8 ⟨a, i, 0⟩ = ⟨crcStep a b, i + 1, 0⟩ := by
  simp [engineRun, engineTick_of_getElem? s b _ i _ h, crcStep]

/-- Eight ticks per byte fold the bytes still to come into ACC. -/
theorem engineRun_rest (pre rest : List Byte) (a : Word) :
    engineRun (pre ++ rest) (8 * rest.length) ⟨a, pre.length, 0⟩ =
      ⟨rest.foldl crcStep a, (pre ++ rest).length, 0⟩ := by
  induction rest generalizing pre a with
  | nil => simp [engineRun]
  | cons b rest ih =>
    have hlen : 8 * (b :: rest).length = 8 + 8 * rest.length := by
      rw [List.length_cons]; omega
    have hnext := ih (pre ++ [b]) (crcStep a b)
    rw [List.append_assoc, List.singleton_append, List.length_append, List.length_singleton] at hnext
    rw [hlen, engineRun_add, engineRun_byte _ b a _ (by simp), hnext, List.foldl_cons]

/-- Where a whole computation ends, from any content of the registers. -/
theorem engineRun_whole (s : List Byte) (e : Engine) :
    engineRun s (8 * s.length) (engineStart e) = ⟨crc16 s, s.length, 0⟩ :=
  engineRun_rest [] s Config.crcInit

/-- Settles O14: the run folds the byte step over the sequence, and past its end the engine idles. -/
theorem serialEngineGivesCrc16 : Obligations.SerialEngineGivesCrc16 := by
  intro s e
  refine ⟨?_, ?_, ?_, fun n => ?_⟩
  · rw [engineCrc, engineRun_whole]
  · rw [engineRun_whole]
  · rw [engineRun_whole]
  · rw [engineRun_add, engineRun_whole, engineRun_past s n _ (Nat.le_refl s.length)]

end Sys2Proof.Machine
end

section
/-! Running a command again (rules R24, R30, R45). -/

namespace Sys2Proof.Machine

open Sys2Proof

/-- A later completion overwrites an earlier one: RES holds the latest result alone (R24). -/
@[simp] theorem State.complete_complete (s : State) (r r' : Result) :
    (s.complete r).complete r' = s.complete r' := rfl

/-- Completing writes RES and the phase, and no operation reads either (R30). -/
theorem sameOperands_complete (i : Instr) (s : State) (r : Result) :
    sameOperands i s (s.complete r) := by
  cases i with
  | crc => exact rfl
  | build => exact ⟨rfl, rfl, rfl, rfl⟩
  | decode => exact ⟨rfl, rfl⟩

/-- Settles O29: the second run finds the operands of the first, so it has the same result, and its
completion overwrites that result with itself. -/
theorem repeatingACommandChangesNothing : Obligations.RepeatingACommandChangesNothing := by
  intro i s t h
  obtain ⟨r, rfl⟩ := exec_next i s t h
  obtain ⟨t', h', hres⟩ :=
    resultDependsOnNamedOperandsAlone i s _ _ (sameOperands_complete i s r) h
  obtain ⟨r', rfl⟩ := exec_next i _ t' h'
  obtain rfl : r' = r := Option.some.inj hres
  rwa [State.complete_complete] at h'

end Sys2Proof.Machine
end

section
/-! The encoding: command codes and the words of the table (rules R61, R71), and the listing form read
and written (rules R65, R73). -/

namespace Sys2Proof

open Sys2Proof.Machine (hi8 lo8 joinWord hi8_joinWord lo8_joinWord joinWord_split)

/-! ## Command codes -/

theorem isIllegalCode_iff (n : Nat) : isIllegalCode n = true ↔ n < 256 ∧ (n < 1 ∨ 3 < n) := by
  simp [isIllegalCode, fitsByte]

@[simp] theorem decodeCmd_encode (i : Instr) : decodeCmd (encode i) = .ok i := by
  cases i <;> rfl

theorem decodeCmd_of_ne (c : Byte) (h1 : c ≠ 0x01) (h2 : c ≠ 0x02) (h3 : c ≠ 0x03) :
    decodeCmd c = .error (.illegalCommand c) := by
  unfold decodeCmd
  rw [if_neg h1, if_neg h2, if_neg h3]

/-- A code is the encoding of the instruction it selects, or it is an illegal one (R61, R71). -/
theorem decodeCmd_cases (c : Byte) :
    (∃ i, c = encode i ∧ decodeCmd c = .ok i) ∨
      (isIllegalCode c.toNat = true ∧ decodeCmd c = .error (.illegalCommand c)) := by
  by_cases h1 : c = 0x01
  · exact .inl ⟨.crc, h1, h1 ▸ decodeCmd_encode .crc⟩
  by_cases h2 : c = 0x02
  · exact .inl ⟨.build, h2, h2 ▸ decodeCmd_encode .build⟩
  by_cases h3 : c = 0x03
  · exact .inl ⟨.decode, h3, h3 ▸ decodeCmd_encode .decode⟩
  refine .inr ⟨(isIllegalCode_iff _).mpr ⟨c.isLt, ?_⟩, decodeCmd_of_ne c h1 h2 h3⟩
  bv_omega

/-- No instruction has an illegal code, so an illegal code selects none. -/
theorem decodeCmd_illegal (n : Nat) (h : isIllegalCode n = true) :
    decodeCmd (BitVec.ofNat 8 n) = .error (.illegalCommand (BitVec.ofNat 8 n)) := by
  obtain ⟨hn, hcode⟩ := (isIllegalCode_iff n).mp h
  apply decodeCmd_of_ne <;> bv_omega

theorem decodeCmd_eq_ok_iff (c : Byte) (i : Instr) : decodeCmd c = .ok i ↔ encode i = c := by
  constructor
  · intro h
    obtain ⟨j, hj, hok⟩ | ⟨-, herr⟩ := decodeCmd_cases c
    · cases h.symm.trans hok
      exact hj.symm
    · cases h.symm.trans herr
  · rintro rfl
    exact decodeCmd_encode i

/-- Settles O1: encoding and decoding are inverse, and every other code is rejected. -/
theorem commandCodeSelectsOperation : Obligations.CommandCodeSelectsOperation :=
  ⟨⟨decodeCmd_encode .crc, decodeCmd_encode .build, decodeCmd_encode .decode⟩,
    decodeCmd_eq_ok_iff, decodeCmd_of_ne⟩

theorem decodeTableWord_encode (i : Instr) : decodeTableWord 8 (encode i).toNat = some i := by
  unfold decodeTableWord
  rw [if_pos ⟨rfl, (encode i).isLt⟩, BitVec.ofNat_toNat, BitVec.setWidth_eq, decodeCmd_encode]

theorem decodeTableWord_illegal (n : Nat) (h : isIllegalCode n = true) :
    decodeTableWord 8 n = none := by
  obtain ⟨hn, -⟩ := (isIllegalCode_iff n).mp h
  unfold decodeTableWord
  rw [if_pos ⟨rfl, hn⟩, decodeCmd_illegal n h]

/-! ## Numbers that fit their registers -/

theorem fitsByte_iff (n : Nat) : fitsByte n = true ↔ n < 256 := decide_eq_true_iff

theorem fitsWord_iff (n : Nat) : fitsWord n = true ↔ n < 65536 := decide_eq_true_iff

theorem fitsByte_toNat (b : Byte) : fitsByte b.toNat = true := (fitsByte_iff _).mpr b.isLt

theorem fitsWord_toNat (w : Word) : fitsWord w.toNat = true := (fitsWord_iff _).mpr w.isLt

theorem toNat_ofNat_of_fitsByte {n : Nat} (h : fitsByte n = true) : (BitVec.ofNat 8 n).toNat = n :=
  (BitVec.toNat_ofNat n 8).trans (Nat.mod_eq_of_lt ((fitsByte_iff n).mp h))

theorem toNat_ofNat_of_fitsWord {n : Nat} (h : fitsWord n = true) : (BitVec.ofNat 16 n).toNat = n :=
  (BitVec.toNat_ofNat n 16).trans (Nat.mod_eq_of_lt ((fitsWord_iff n).mp h))

theorem toNat_ofNat_of_isIllegalCode {n : Nat} (h : isIllegalCode n = true) :
    (BitVec.ofNat 8 n).toNat = n :=
  toNat_ofNat_of_fitsByte ((fitsByte_iff n).mpr ((isIllegalCode_iff n).mp h).1)

theorem all_fitsByte_toNat (bs : List Byte) : (bs.map BitVec.toNat).all fitsByte = true := by
  simp [fitsByte_toNat]

theorem all_fitsByte_eq_false {data : List Nat} (h : ∃ n ∈ data, 256 ≤ n) :
    data.all fitsByte = false := by
  obtain ⟨n, hn, hwide⟩ := h
  exact List.all_eq_false.mpr ⟨n, hn, by rw [fitsByte_iff]; omega⟩

/-- Bytes written for numbers that fit are these numbers. -/
theorem map_toNat_map_ofNat {data : List Nat} (h : data.all fitsByte = true) :
    (data.map (BitVec.ofNat 8)).map BitVec.toNat = data := by
  rw [List.all_eq_true] at h
  rw [List.map_map]
  exact (List.map_congr_left fun n hn => toNat_ofNat_of_fitsByte (h n hn)).trans (List.map_id' data)

theorem wellFormed_build_iff (sid fc addr qty : Nat) :
    (Command.build sid fc addr qty).wellFormed = true ↔
      fitsByte sid = true ∧ fitsByte fc = true ∧ fitsWord addr = true ∧ fitsWord qty = true := by
  simp [Command.wellFormed, and_assoc]

/-! ## Reading back a listing -/

theorem bytesOf_map_byte (bs : List Byte) : bytesOf (bs.map .byte) = some bs := by
  induction bs with
  | nil => rfl
  | cons b bs ih => rw [List.map_cons, bytesOf, ih, Option.map_some]

/-- `bytesOf` answers for a run of byte marks only. -/
theorem eq_map_byte_of_bytesOf {ts : List Token} {bs : List Byte} (h : bytesOf ts = some bs) :
    ts = bs.map .byte := by
  induction ts generalizing bs with
  | nil => cases h; rfl
  | cons t ts ih =>
    cases t with
    | byte b =>
      obtain ⟨cs, hcs, rfl⟩ := Option.map_eq_some_iff.mp h
      rw [ih hcs, List.map_cons]
    | bar => cases h
    | count n => cases h

theorem encodeData_eq (data : List Nat) :
    encodeData data =
      .bar :: .count data.length :: (data.map (BitVec.ofNat 8)).map .byte := by
  rw [encodeData, List.map_map]; rfl

theorem decodeData_encodeData {data : List Nat} (h : data.all fitsByte = true) :
    decodeData (encodeData data) = .ok data := by
  rw [encodeData_eq, decodeData, bytesOf_map_byte]
  simp only [List.length_map, if_true, map_toNat_map_ofNat h]

/-- What `decodeData` reads is the operand of exactly one list of numbers, all of which fit. -/
theorem encodeData_of_decodeData {ts : List Token} {data : List Nat} (h : decodeData ts = .ok data) :
    data.all fitsByte = true ∧ encodeData data = ts := by
  unfold decodeData at h
  split at h
  · split at h
    · next n rest bs hbs =>
      split at h
      · next hlen =>
        cases h
        refine ⟨all_fitsByte_toNat bs, ?_⟩
        rw [encodeData_eq, eq_map_byte_of_bytesOf hbs, List.length_map, hlen]
        simp [Function.comp_def]
      · cases h
    · cases h
  · cases h

theorem decodeBuildOperands_encode {sid fc addr qty : Nat}
    (h : (Command.build sid fc addr qty).wellFormed = true) :
    decodeBuildOperands ([.bar, .byte (BitVec.ofNat 8 sid), .byte (BitVec.ofNat 8 fc)]
      ++ encodeWord addr ++ encodeWord qty) = .ok (.build sid fc addr qty) := by
  obtain ⟨hsid, hfc, haddr, hqty⟩ := (wellFormed_build_iff ..).mp h
  simp only [encodeWord, List.cons_append, List.nil_append, decodeBuildOperands, joinWord_split,
    toNat_ofNat_of_fitsByte hsid, toNat_ofNat_of_fitsByte hfc, toNat_ofNat_of_fitsWord haddr,
    toNat_ofNat_of_fitsWord hqty]

theorem encodeWord_joinWord (hi lo : Byte) :
    encodeWord (joinWord hi lo).toNat = [.byte hi, .byte lo] := by
  rw [encodeWord, BitVec.ofNat_toNat, BitVec.setWidth_eq, hi8_joinWord, lo8_joinWord]

/-- What `decodeBuildOperands` reads are the operands of exactly one BUILD, all of which fit. -/
theorem encode_of_decodeBuildOperands {ts : List Token} {c : Command}
    (h : decodeBuildOperands ts = .ok c) :
    c.wellFormed = true ∧ encodeListing c = .byte (encode .build) :: ts := by
  unfold decodeBuildOperands at h
  split at h
  · cases h
    refine ⟨(wellFormed_build_iff ..).mpr
      ⟨fitsByte_toNat _, fitsByte_toNat _, fitsWord_toNat _, fitsWord_toNat _⟩, ?_⟩
    simp [encodeListing, encodeWord_joinWord]
  · cases h

/-- The rest of a line after its command byte, when the byte selects an operation: the operands of
that operation's format. -/
theorem decodeListing_encode (i : Instr) (ts : List Token) :
    decodeListing (.byte (encode i) :: ts) =
      match i with
      | .crc => (decodeData ts).map .crc
      | .build => decodeBuildOperands ts
      | .decode => (decodeData ts).map .decode := by
  unfold decodeListing
  simp only [decodeCmd_encode]
  cases i <;> rfl

theorem decodeListing_illegal (c : Byte) (ts : List Token)
    (h : decodeCmd c = .error (.illegalCommand c)) :
    decodeListing (.byte c :: ts) =
      if ts = [] then .ok (.illegal c.toNat) else .error .badOperands := by
  unfold decodeListing
  simp only [h]

/-- Settles O38: the command byte of the line selects its form again, and the operands of each
form are read back from the marks written for them. -/
theorem listingRoundTrip : Obligations.ListingRoundTrip := by
  intro c hc
  cases c with
  | crc data => exact congrArg (Except.map Command.crc) (decodeData_encodeData hc)
  | build sid fc addr qty => exact decodeBuildOperands_encode hc
  | decode raw => exact congrArg (Except.map Command.decode) (decodeData_encodeData hc)
  | illegal code =>
    rw [encodeListing, decodeListing_illegal _ _ (decodeCmd_illegal code hc), if_pos rfl,
      toNat_ofNat_of_isIllegalCode hc]

/-! ## The one meaning of a listing line -/

/-- A format C or D line that is read holds operands that fit, in the marks written for them. -/
theorem of_map_decodeData {f : List Nat → Command} {ts : List Token} {c : Command}
    (h : (decodeData ts).map f = .ok c) :
    ∃ data, c = f data ∧ data.all fitsByte = true ∧ encodeData data = ts := by
  cases hd : decodeData ts with
  | error e => rw [hd] at h; cases h
  | ok data =>
    rw [hd] at h
    cases h
    exact ⟨data, rfl, encodeData_of_decodeData hd⟩

/-- Settles O39: the line begins with a byte; a byte that selects an operation is followed by the
operands of its format, and an illegal one by nothing. -/
theorem listingHasOneMeaning : Obligations.ListingHasOneMeaning := by
  intro ts c h
  match ts with
  | [] => cases h
  | .bar :: _ => cases h
  | .count _ :: _ => cases h
  | .byte code :: ts =>
    obtain ⟨i, rfl, -⟩ | ⟨hcode, herr⟩ := decodeCmd_cases code
    · rw [decodeListing_encode] at h
      cases i with
      | crc =>
        obtain ⟨data, rfl, hdata, rfl⟩ := of_map_decodeData h
        exact ⟨hdata, rfl⟩
      | build => exact encode_of_decodeBuildOperands h
      | decode =>
        obtain ⟨raw, rfl, hraw, rfl⟩ := of_map_decodeData h
        exact ⟨hraw, rfl⟩
    · rw [decodeListing_illegal code ts herr] at h
      split at h
      · next hts =>
        cases h
        exact ⟨hcode, by rw [encodeListing, BitVec.ofNat_toNat, BitVec.setWidth_eq, hts]⟩
      · cases h

/-- Settles O2: the words of the table are the encodings of its rows, the three further words are
illegal codes, and the two listings of R65 are those of well-formed commands. -/
theorem specWordsDecode : Obligations.SpecWordsDecode :=
  ⟨decodeTableWord_encode .crc, decodeTableWord_encode .build, decodeTableWord_encode .decode,
    decodeTableWord_illegal 0x00 (by decide), decodeTableWord_illegal 0x04 (by decide),
    decodeTableWord_illegal 0xFF (by decide), listingRoundTrip (.build 1 4 0 2) (by decide),
    listingRoundTrip (.crc []) (by decide)⟩

end Sys2Proof
end

section
/-! Written commands issued and run (rules R62 to R64, R70, R71, R74, R232). -/

namespace Sys2Proof.Machine

open Sys2Proof

/-! ## Written commands issued -/

/-- Settles O36: an overwide operand makes the command ill-formed. -/
theorem overwideOperandsAreRefused : Obligations.OverwideOperandsAreRefused := by
  intro s sid fc addr qty data
  refine ⟨fun hwide => issue_overwide _ s ?_, fun hwide => ⟨?_, ?_⟩⟩
  · rw [Bool.eq_false_iff, ne_eq, wellFormed_build_iff]
    simp only [fitsByte_iff, fitsWord_iff]
    omega
  · exact issue_overwide (.crc data) s (all_fitsByte_eq_false hwide)
  · exact issue_overwide (.decode data) s (all_fitsByte_eq_false hwide)

/-- The state an idle block is in once the host has issued a written command: operands and code
stand in their registers and the command is started (R22, R232). -/
def State.issued (s : State) (c : Command) : State :=
  { ((operandWrites c).foldl State.put s).put (.cmd (commandCode c)) with phase := .busy }

section Issued
variable (s : State) (c : Command)
@[simp] theorem State.issued_cmd : (s.issued c).cmd = commandCode c := rfl
@[simp] theorem State.issued_phase : (s.issued c).phase = .busy := rfl
@[simp] theorem State.issued_respLen : (s.issued c).respLen = s.respLen := by simp [State.issued]
end Issued

theorem runCommand_idle (c : Command) (s : State) (hc : c.wellFormed = true)
    (hp : s.phase = .idle) : runCommand c s = step (s.issued c) := by
  rw [runCommand, issue_idle c s hc hp, State.issued]

/-! ## Written commands run -/

theorem runCommand_completes (c : Command) (s : State) (hc : c.wellFormed = true)
    (hlen : 5 ≤ s.respLen) (hp : s.phase = .idle) :
    ∃ r, runCommand c s = .next ((s.issued c).complete r) := by
  rw [runCommand_idle c s hc hp]
  obtain ⟨r, hr, -⟩ := step_busy_completes (s.issued c) (by simpa using hlen) rfl
  exact ⟨r, hr⟩

theorem runCommand_operation (c : Command) (i : Instr) (s : State) (hc : c.wellFormed = true)
    (hlen : 5 ≤ s.respLen) (hp : s.phase = .idle) (hcode : commandCode c = encode i) :
    runCommand c s = exec i (s.issued c) := by
  rw [runCommand_idle c s hc hp]
  refine stepRunsTheStartedCommand _ i (by simpa using hlen) rfl ?_ (by cases i <;> rfl)
  rw [State.issued_cmd, hcode, decodeCmd_encode]

/-- A started command whose code selects no operation completes with `err(illegalCommand)` (R202).
-/
theorem step_illegal (s : State) (hlen : 5 ≤ s.respLen) (hp : s.phase = .busy)
    (herr : decodeCmd s.cmd = .error (.illegalCommand s.cmd)) :
    step s = .next (s.raiseError .illegalCommand) := by
  obtain ⟨hlow, -⟩ | ⟨-, hidle, -⟩ | ⟨-, -, i, hi, -⟩ | ⟨-, -, -, he⟩ := step_cases s
  · omega
  · cases hp.symm.trans hidle
  · cases hi.symm.trans herr
  · exact he

theorem runCommand_illegal (code : Nat) (s : State) (hc : (Command.illegal code).wellFormed = true)
    (hlen : 5 ≤ s.respLen) (hp : s.phase = .idle) :
    runCommand (.illegal code) s =
      .next ((s.issued (.illegal code)).raiseError .illegalCommand) := by
  rw [runCommand_idle _ s hc hp]
  exact step_illegal _ (by simpa using hlen) rfl (decodeCmd_illegal code hc)

/-- Settles O37: the block ends in the issued state with a result added, and the operands issued
are the numbers written, since they fit. -/
theorem writtenCommandRunsToCompletion : Obligations.WrittenCommandRunsToCompletion := by
  intro c s hc hlen hp
  obtain ⟨r, hr⟩ := runCommand_completes c s hc hlen hp
  refine ⟨_, hr, rfl, rfl, s.issued_respLen c, ?_⟩
  cases c with
  | crc data => exact ⟨rfl, map_toNat_map_ofNat hc, rfl, rfl, rfl, rfl⟩
  | build sid fc addr qty =>
    obtain ⟨hsid, hfc, haddr, hqty⟩ := (wellFormed_build_iff ..).mp hc
    exact ⟨rfl, toNat_ofNat_of_fitsByte hsid, toNat_ofNat_of_fitsByte hfc,
      toNat_ofNat_of_fitsWord haddr, toNat_ofNat_of_fitsWord hqty, rfl⟩
  | decode raw => exact ⟨rfl, map_toNat_map_ofNat hc, rfl, rfl, rfl, rfl⟩
  | illegal code =>
    cases hr.symm.trans (runCommand_illegal code s hc hlen hp)
    exact ⟨toNat_ofNat_of_isIllegalCode hc, rfl, rfl, rfl, rfl, rfl, rfl⟩

/-! ## BUILD and READREQ as written commands -/

theorem buildFrame_headerBytes {sid fc : Byte} {addr qty : Word} {f : Frame}
    (h : buildFrame sid fc addr qty = .ok f) : f.headerBytes = headerOf sid fc addr qty := by
  rw [buildFrame_eq] at h
  cases h
  rfl

theorem runCommand_build (sid fc : Byte) (addr qty : Word) (s : State) (hlen : 5 ≤ s.respLen)
    (hp : s.phase = .idle) :
    ∃ t f, runCommand (.build sid.toNat fc.toNat addr.toNat qty.toNat) s = .next t ∧
      buildFrame sid fc addr qty = .ok f ∧ t.res = some (.frame f) ∧
      t.input = s.input ∧ t.respLen = s.respLen := by
  have hwf := (wellFormed_build_iff ..).mpr
    ⟨fitsByte_toNat sid, fitsByte_toNat fc, fitsWord_toNat addr, fitsWord_toNat qty⟩
  rw [runCommand_operation _ .build s hwf hlen hp rfl]
  obtain ⟨f, hf, he⟩ :=
    exists_execBuild_eq (s.issued (.build sid.toNat fc.toNat addr.toNat qty.toNat))
  refine ⟨_, f, he, ?_, rfl, rfl, s.issued_respLen _⟩
  simpa [State.issued, operandWrites] using hf

/-- Settles O40: READREQ is a BUILD whose function code is 0x04 and whose quantity is 2. -/
theorem readReqBuildsTheRequest : Obligations.ReadReqBuildsTheRequest := by
  intro s sid addr hlen hp
  obtain ⟨t, f, hrun, hf, hres, hin, hresp⟩ :=
    runCommand_build sid Config.fcReadInput addr Config.qtyPerRead s hlen hp
  exact ⟨t, f, hrun, hres, buildFrame_headerBytes hf, buildFrame_selfConsistent _ _ _ _ f hf,
    hin, hresp⟩

end Sys2Proof.Machine
end

section
/-! The CRC Engine: the round is linear over XOR and loses no information; from this follow the
table-driven engine, the zero residue of a right trailer, and the detection of every error in one
byte (rules R100 to R105, R142). -/

namespace Sys2Proof.Machine

open Sys2Proof

/-! ## One round -/

theorem getLsbD_zero_iff_odd (a : Word) : a.getLsbD 0 = true ↔ a.toNat % 2 = 1 := by
  simp [BitVec.getLsbD]

theorem crcRound_toNat_odd (a : Word) (h : a.toNat % 2 = 1) :
    (crcRound a).toNat = (a.toNat / 2) ^^^ 0xA001 := by
  rw [crcRound, if_pos ((getLsbD_zero_iff_odd a).mpr h), BitVec.toNat_xor,
    BitVec.toNat_ushiftRight, Nat.shiftRight_one]
  rfl

theorem crcRound_toNat_even (a : Word) (h : a.toNat % 2 = 0) :
    (crcRound a).toNat = a.toNat / 2 := by
  rw [crcRound, if_neg (by rw [getLsbD_zero_iff_odd]; omega), BitVec.toNat_ushiftRight,
    Nat.shiftRight_one]

/-- Settles O9: bit 0 is the parity, and a shift by one halves. -/
theorem roundShiftsAndXors : Obligations.RoundShiftsAndXors := by
  intro a
  split
  · next hodd => exact crcRound_toNat_odd a hodd
  · next heven => exact crcRound_toNat_even a (by omega)

/-- The round is linear: the bit shifted out of an XOR is the XOR of the bits, and a polynomial
entering twice cancels. -/
theorem crcRound_xor : Function.Semiconj₂ crcRound (· ^^^ ·) (· ^^^ ·) := by
  intro a b
  simp only [crcRound, BitVec.ushiftRight_xor_distrib, BitVec.getLsbD_xor]
  cases a.getLsbD 0 <;> cases b.getLsbD 0
  · rfl
  · exact BitVec.xor_assoc ..
  · rw [if_pos (by decide), if_pos rfl, if_neg (by decide)]
    ac_rfl
  · rw [if_neg (by decide), if_pos rfl, if_pos rfl]
    calc (a >>> 1) ^^^ (b >>> 1)
      _ = (a >>> 1) ^^^ (b >>> 1) ^^^ (Config.crcPoly ^^^ Config.crcPoly) := by
        rw [BitVec.xor_self, BitVec.xor_zero]
      _ = (a >>> 1 ^^^ Config.crcPoly) ^^^ (b >>> 1 ^^^ Config.crcPoly) := by ac_rfl

/-- The polynomial has its top bit set and a shift leaves that bit clear, so only zero rounds to
zero. -/
theorem eq_zero_of_crcRound_eq_zero {a : Word} (h : crcRound a = 0) : a = 0 := by
  obtain heven | hodd := Nat.mod_two_eq_zero_or_one a.toNat
  · have hhalf : 0 = a.toNat / 2 :=
      (congrArg BitVec.toNat h).symm.trans (crcRound_toNat_even a heven)
    apply BitVec.eq_of_toNat_eq
    change a.toNat = 0
    omega
  · have hhalf : 0 = a.toNat / 2 ^^^ 0xA001 :=
      (congrArg BitVec.toNat h).symm.trans (crcRound_toNat_odd a hodd)
    have hpoly : a.toNat / 2 = 0xA001 := Nat.xor_eq_zero_iff.mp hhalf.symm
    have := a.isLt
    omega

theorem crcRound_injective : Function.Injective crcRound := by
  intro a b h
  have hzero : crcRound (a ^^^ b) = 0 :=
    (crcRound_xor a b).trans (BitVec.xor_eq_zero_iff.mpr h)
  exact BitVec.xor_eq_zero_iff.mp (eq_zero_of_crcRound_eq_zero hzero)

/-! ## The byte step -/

theorem crcStep_eq_iterate (a : Word) (b : Byte) :
    crcStep a b = crcRound^[8] (a ^^^ zext16 b) := rfl

theorem zext16_injective : Function.Injective zext16 := by
  intro b b' h
  apply BitVec.eq_of_toNat_eq
  rw [← zext16_toNat, h, zext16_toNat]

theorem zext16_eq_joinWord (b : Byte) : zext16 b = joinWord 0 b := by
  apply BitVec.eq_of_toNat_eq
  simp [zext16_toNat, joinWord_toNat]

theorem hi8_xor_zext16 (a : Word) (b : Byte) : hi8 (a ^^^ zext16 b) = hi8 a := by
  calc hi8 (a ^^^ zext16 b)
    _ = hi8 a ^^^ hi8 (zext16 b) := BitVec.extractLsb'_xor
    _ = hi8 a := by rw [zext16_eq_joinWord, hi8_joinWord]; exact BitVec.xor_zero

theorem lo8_xor_zext16 (a : Word) (b : Byte) : lo8 (a ^^^ zext16 b) = lo8 a ^^^ b := by
  calc lo8 (a ^^^ zext16 b)
    _ = lo8 a ^^^ lo8 (zext16 b) := BitVec.extractLsb'_xor
    _ = lo8 a ^^^ b := by rw [zext16_eq_joinWord, lo8_joinWord]

/-- Settles O10: the rounds are those of the definition, and the XOR acts byte by byte. -/
theorem byteStepIsEightRounds : Obligations.ByteStepIsEightRounds :=
  fun a b => ⟨crcStep_eq_iterate a b, hi8_xor_zext16 a b, lo8_xor_zext16 a b⟩

theorem crcStep_injective_left (b : Byte) : Function.Injective fun a => crcStep a b :=
  fun _ _ h => (BitVec.xor_left_inj _).mp (crcRound_injective.iterate 8 h)

theorem crcStep_injective_right (a : Word) : Function.Injective (crcStep a) :=
  fun _ _ h => zext16_injective ((BitVec.xor_right_inj _).mp (crcRound_injective.iterate 8 h))

theorem joinWord_xor_zext16 (hi lo b : Byte) :
    joinWord hi lo ^^^ zext16 b = joinWord hi (lo ^^^ b) := by
  rw [← joinWord_split (joinWord hi lo ^^^ zext16 b), hi8_xor_zext16, lo8_xor_zext16, hi8_joinWord,
    lo8_joinWord]

/-- As long as only zeros are shifted out, the rounds are plain shifts. -/
theorem crcRound_iterate_toNat_of_eq_mul (n c : Nat) (a : Word) (h : a.toNat = 2 ^ n * c) :
    (crcRound^[n] a).toNat = c := by
  induction n generalizing a with
  | zero => rw [Function.iterate_zero_apply, h, pow_zero, one_mul]
  | succ n ih =>
    have htwice : a.toNat = 2 * (2 ^ n * c) := by rw [h, pow_succ']; exact Nat.mul_assoc ..
    apply ih
    rw [crcRound_toNat_even a (by omega)]
    omega

theorem crcRound_iterate_joinWord_zero (hi : Byte) : crcRound^[8] (joinWord hi 0) = zext16 hi := by
  apply BitVec.eq_of_toNat_eq
  rw [zext16_toNat]
  apply crcRound_iterate_toNat_of_eq_mul
  rw [joinWord_toNat]
  change hi.toNat * 256 + 0 = 2 ^ 8 * hi.toNat
  omega

/-- The high byte moves down and the low byte, with the input byte, adds its step from zero: the
reason the table of V-C9 suffices. -/
theorem crcStep_joinWord (hi lo b : Byte) :
    crcStep (joinWord hi lo) b = zext16 hi ^^^ crcStep 0 (lo ^^^ b) := by
  have hsplit : joinWord hi (lo ^^^ b) = joinWord hi 0 ^^^ zext16 (lo ^^^ b) := by
    rw [joinWord_xor_zext16]
    exact congrArg _ BitVec.zero_xor.symm
  calc crcStep (joinWord hi lo) b
    _ = crcRound^[8] (joinWord hi 0 ^^^ zext16 (lo ^^^ b)) := by
      rw [crcStep_eq_iterate, joinWord_xor_zext16, hsplit]
    _ = crcRound^[8] (joinWord hi 0) ^^^ crcRound^[8] (zext16 (lo ^^^ b)) :=
      crcRound_xor.iterate 8 _ _
    _ = zext16 hi ^^^ crcStep 0 (lo ^^^ b) := by
      rw [crcRound_iterate_joinWord_zero, crcStep_eq_iterate]
      exact congrArg (fun w => zext16 hi ^^^ crcRound^[8] w) BitVec.zero_xor.symm

/-! ## The CRC command -/

/-- Settles O11: the result is the fold's two bytes, and its status is OK. -/
theorem crcCommandResult : Obligations.CrcCommandResult :=
  fun s => ⟨_, execCrc_eq s, rfl, readStatus_some (s.complete _) _ rfl⟩

/-! ## The table-driven engine -/

theorem crcTableAt_eq : ∀ b : Byte, crcTableAt b = crcStep 0x0000 b := by decide

theorem ushiftRight_eight (a : Word) : a >>> 8 = zext16 (hi8 a) := by
  apply BitVec.eq_of_toNat_eq
  rw [zext16_toNat, hi8_toNat, BitVec.toNat_ushiftRight, Nat.shiftRight_eq_div_pow]

theorem crcTableStep_eq : crcTableStep = crcStep := by
  funext a b
  calc crcTableStep a b
    _ = zext16 (hi8 a) ^^^ crcStep 0 (lo8 a ^^^ b) := by
      rw [crcTableStep, ushiftRight_eight, crcTableAt_eq, lo8_xor_zext16]
    _ = crcStep a b := by rw [← crcStep_joinWord, joinWord_split]

/-- Settles O13: the table holds the byte steps from zero, and a table step is a byte step. -/
theorem tableEngineGivesCrc16 : Obligations.TableEngineGivesCrc16 := by
  refine ⟨crcTableAt_eq, fun s => ?_⟩
  rw [crcByTable, crcTableStep_eq, crc16]

/-! ## The residue of a right trailer -/

theorem crcStep_joinWord_self (hi lo : Byte) : crcStep (joinWord hi lo) lo = zext16 hi := by
  rw [crcStep_joinWord, BitVec.xor_self]
  exact BitVec.xor_zero

theorem crcStep_zext16_self (b : Byte) : crcStep (zext16 b) b = 0 := by
  rw [zext16_eq_joinWord, crcStep_joinWord_self]
  rfl

theorem crc16_append_two (s : List Byte) (lo hi : Byte) :
    crc16 (s ++ [lo, hi]) = crcStep (crcStep (crc16 s) lo) hi := by
  simp [crc16]

/-- The residue is zero exactly for a right trailer (R104): the trailer's own value folds to zero,
and two byte steps lose no information. -/
theorem crc16_append_two_eq_zero_iff (s : List Byte) (lo hi : Byte) :
    crc16 (s ++ [lo, hi]) = 0 ↔ crc16 s = joinWord hi lo := by
  have hself : crcStep (crcStep (joinWord hi lo) lo) hi = 0 := by
    rw [crcStep_joinWord_self, crcStep_zext16_self]
  rw [crc16_append_two, ← hself, (crcStep_injective_left hi).eq_iff,
    (crcStep_injective_left lo).eq_iff]

/-- Settles O15: the numeral and the shifts of the statement are the lemma's zero and `joinWord`. -/
theorem residueIsZeroExactlyForRightTrailer : Obligations.ResidueIsZeroExactlyForRightTrailer :=
  crc16_append_two_eq_zero_iff

theorem buildFrame_residue {sid fc : Byte} {addr qty : Word} {f : Frame}
    (h : buildFrame sid fc addr qty = .ok f) : crc16 f.bytes = 0 :=
  (crc16_append_two_eq_zero_iff ..).mpr (buildFrame_selfConsistent _ _ _ _ f h)

/-- Settles O18: the trailer is the CRC of the header, so the residue is zero. -/
theorem builtFrameIsSelfConsistent : Obligations.BuiltFrameIsSelfConsistent := by
  intro s
  obtain ⟨f, hf, he⟩ := exists_execBuild_eq s
  exact ⟨_, f, he, rfl, rfl, buildFrame_selfConsistent _ _ _ _ f hf, buildFrame_residue hf⟩

/-! ## Errors in one byte -/

theorem foldl_crcStep_injective (s : List Byte) :
    Function.Injective fun a => s.foldl crcStep a := by
  induction s with
  | nil => exact Function.injective_id
  | cons b s ih => exact ih.comp (crcStep_injective_left b)

/-- The CRC tells any two sequences apart that differ in one byte (R103). -/
theorem crc16_eq_iff_of_one_byte (pre post : List Byte) (b b' : Byte) :
    crc16 (pre ++ b :: post) = crc16 (pre ++ b' :: post) ↔ b = b' := by
  simp only [crc16, List.foldl_append, List.foldl_cons]
  rw [(foldl_crcStep_injective post).eq_iff, (crcStep_injective_right _).eq_iff]

theorem xor_two_pow_ne_self (b : Byte) {j : Nat} (hj : j < 8) :
    b ^^^ BitVec.ofNat 8 (2 ^ j) ≠ b := by
  intro h
  have hzero : BitVec.ofNat 8 (2 ^ j) = 0 :=
    (BitVec.xor_right_inj b).mp (h.trans BitVec.xor_zero.symm)
  have hlt : 2 ^ j < 2 ^ 8 := Nat.pow_lt_pow_right (by decide) hj
  have hpow : 2 ^ j = 0 := by
    rw [← Nat.mod_eq_of_lt hlt]
    exact congrArg BitVec.toNat hzero
  exact absurd hpow (by simp)

theorem crc16_flipBit_ne (s : List Byte) {i j : Nat} (hi : i < s.length) (hj : j < 8) :
    crc16 (flipBit s i j) ≠ crc16 s := by
  intro h
  have hs : s = s.take i ++ s[i] :: s.drop (i + 1) := by simp
  rw [flipBit, List.modify_eq_take_cons_drop hi] at h
  have hbyte := (crc16_eq_iff_of_one_byte ..).mp (h.trans (congrArg crc16 hs))
  exact xor_two_pow_ne_self _ hj hbyte

/-- DECODE rejects every frame of the right length whose residue is not zero (R104, R142). -/
theorem execDecode_residue_ne_zero (s : State) (hc : 5 ≤ s.respLen)
    (hl : s.input.length = s.respLen) (hr : crc16 s.input ≠ 0) :
    execDecode s = .next (s.raiseError .checksumMismatch) := by
  obtain ⟨body, lo, hi, hin⟩ := exists_append_two s.input (by omega)
  have hlen : s.respLen = body.length + 2 := by rw [← hl, hin]; simp
  rw [hin, Ne, crc16_append_two_eq_zero_iff] at hr
  rw [execDecode_eq s body lo hi hc hin hlen, if_pos hr]

/-- Settles O16: the intact frame has residue zero, so with one bit flipped, in the trailer or
before it, it has another. -/
theorem singleBitErrorIsDetected : Obligations.SingleBitErrorIsDetected := by
  intro s body lo hi i j hresp hbody htrailer hidx hj hin
  have hzero : crc16 (body ++ [lo, hi]) = 0 :=
    (crc16_append_two_eq_zero_iff body lo hi).mpr htrailer
  have hlen : (body ++ [lo, hi]).length = 9 := by simp [hbody]
  refine execDecode_residue_ne_zero s (by omega) ?_ ?_
  · rw [hin, flipBit, List.length_modify, hlen, hresp]
  · rw [hin, ← hzero]
    exact crc16_flipBit_ne _ (by omega) hj

end Sys2Proof.Machine
end

section
/-! The Frame Builder: the frame BUILD leaves, that it keeps every bit of the four operands, and what
DECODE makes of it (rules R120 to R122, R143). -/

namespace Sys2Proof.Machine

open Sys2Proof

/-! ## The frame of four operands -/

/-- The frame BUILD puts together (R66, R120). -/
def frameOf (sid fc : Byte) (addr qty : Word) : Frame where
  slaveId := sid
  functionCode := fc
  addrHi := hi8 addr
  addrLo := lo8 addr
  countHi := hi8 qty
  countLo := lo8 qty
  crcLo := lo8 (crc16 (headerOf sid fc addr qty))
  crcHi := hi8 (crc16 (headerOf sid fc addr qty))

theorem execBuild_eq (s : State) :
    execBuild s = .next (s.complete (.frame (frameOf s.sid s.fc s.addr s.qty))) := by
  unfold execBuild
  rw [buildFrame_eq]
  rfl

/-- Settles O17: BUILD leaves `frameOf` its operands, and STATUS of a frame is OK. -/
theorem buildResult : Obligations.BuildResult :=
  fun s => ⟨_, _, execBuild_eq s, rfl, rfl, readStatus_some _ (.frame _) rfl⟩

/-! ## The operands of a frame -/

theorem eq_of_hi8_of_lo8 {v w : Word} (hhi : hi8 v = hi8 w) (hlo : lo8 v = lo8 w) : v = w := by
  rw [← joinWord_split v, ← joinWord_split w, hhi, hlo]

/-- The header bytes alone tell the operands (R121). -/
theorem frameOf_eq_iff (sid fc sid' fc' : Byte) (addr qty addr' qty' : Word) :
    frameOf sid fc addr qty = frameOf sid' fc' addr' qty' ↔
      sid = sid' ∧ fc = fc' ∧ addr = addr' ∧ qty = qty' := by
  constructor
  · intro h
    obtain ⟨hsid, hfc, haddrHi, haddrLo, hqtyHi, hqtyLo, -, -⟩ := Frame.mk.inj h
    exact ⟨hsid, hfc, eq_of_hi8_of_lo8 haddrHi haddrLo, eq_of_hi8_of_lo8 hqtyHi hqtyLo⟩
  · rintro ⟨rfl, rfl, rfl, rfl⟩
    rfl

/-- Settles O19: the two results are the frames of the operands. -/
theorem framesAreEqualExactlyForEqualOperands :
    Obligations.FramesAreEqualExactlyForEqualOperands := by
  intro s s'
  refine ⟨_, _, execBuild_eq s, execBuild_eq s', ?_⟩
  rw [State.complete_res, State.complete_res, Option.some_inj, Result.frame.injEq, frameOf_eq_iff]

/-! ## DECODE of a frame -/

/-- Of the three checks of DECODE the third fails on a frame with a right trailer: a request frame
carries 3 bytes where the payload of 4 would stand (R143, R144). -/
theorem execDecode_frame (s : State) (f : Frame) (hin : s.input = f.bytes) (hlen : s.respLen = 8)
    (hcrc : crc16 f.headerBytes = joinWord f.crcHi f.crcLo) :
    execDecode s = .next (s.raiseError .malformedPayload) := by
  rw [execDecode_eq s f.headerBytes f.crcLo f.crcHi (by omega) hin hlen,
    if_neg (not_not_intro hcrc), if_pos (by simp [Frame.headerBytes])]

/-- Settles O20: a frame BUILD puts together has a right trailer. -/
theorem builtFramePassesTheDecodersCrcCheck : Obligations.BuiltFramePassesTheDecodersCrcCheck := by
  intro s u
  obtain ⟨f, hf, he⟩ := exists_execBuild_eq s
  exact ⟨_, f, he, rfl, execDecode_frame _ f rfl rfl (buildFrame_selfConsistent _ _ _ _ f hf)⟩

end Sys2Proof.Machine
end

section
/-! The Response Decoder: which of its checks DECODE reports, the bits it returns, and what a poll
records for a read (rules R141 to R147, R177). -/

namespace Sys2Proof.Machine

open Sys2Proof

/-! ## The payload word -/

/-- `IN[3] || IN[4] || IN[5] || IN[6]`, the bits DECODE returns (R140, R143). -/
def payloadWord (buf : List Byte) : Bits32 :=
  buf.getD 3 0 ++ buf.getD 4 0 ++ buf.getD 5 0 ++ buf.getD 6 0

theorem bigEndian_drop_three (body : List Byte) (lo hi : Byte) (h : body.length = 7) :
    BitVec.ofNat 32 (bigEndian (body.drop 3)) = payloadWord (body ++ [lo, hi]) := by
  match body, h with
  | [_, _, _, b3, b4, b5, b6], _ => exact bigEndian_four b3 b4 b5 b6

/-- The bytes of a word, high byte first, are put side by side to the word again (R41). -/
theorem append_bytes (w : Bits32) :
    w.extractLsb' 24 8 ++ w.extractLsb' 16 8 ++ w.extractLsb' 8 8 ++ w.extractLsb' 0 8 = w := by
  rw [BitVec.extractLsb'_append_extractLsb'_eq_extractLsb' (by rfl),
    BitVec.extractLsb'_append_extractLsb'_eq_extractLsb' (by rfl),
    BitVec.extractLsb'_append_extractLsb'_eq_extractLsb' (by rfl)]
  exact BitVec.extractLsb'_eq_self

/-! ## The checks of DECODE -/

/-- Settles O21: the length is checked before any byte is read. -/
theorem decodeWrongLength : Obligations.DecodeWrongLength :=
  execDecode_wrongLength

/-- Past the length check DECODE is a matter of two facts about IN and RESP_LEN: a right trailer is
a zero residue (R104), and a payload of 4 bytes a RESP_LEN of 9 (R143). -/
theorem execDecode_rightLength (s : State) (hc : 5 ≤ s.respLen)
    (hl : s.input.length = s.respLen) :
    execDecode s =
      if crc16 s.input ≠ 0 then .next (s.raiseError .checksumMismatch)
      else if s.respLen ≠ 9 then .next (s.raiseError .malformedPayload)
      else .next (s.complete (.value (payloadWord s.input))) := by
  obtain ⟨body, lo, hi, hin⟩ := exists_append_two s.input (by omega)
  have hlen : s.respLen = body.length + 2 := by rw [← hl, hin, List.length_append]; rfl
  have hnine : s.respLen = 9 ↔ body.length = 7 := by omega
  simp only [execDecode_eq s body lo hi hc hin hlen, hin, ne_eq, crc16_append_two_eq_zero_iff,
    hnine]
  by_cases h7 : body.length = 7
  · rw [bigEndian_drop_three body lo hi h7]
  · rw [if_pos h7, if_pos h7]

theorem execDecode_malformedPayload (s : State) (hc : 5 ≤ s.respLen)
    (hl : s.input.length = s.respLen) (hcrc : crc16 s.input = 0) (h9 : s.respLen ≠ 9) :
    execDecode s = .next (s.raiseError .malformedPayload) := by
  rw [execDecode_rightLength s hc hl, if_neg (not_not_intro hcrc), if_pos h9]

theorem execDecode_value (s : State) (hl : s.input.length = s.respLen) (hcrc : crc16 s.input = 0)
    (h9 : s.respLen = 9) : execDecode s = .next (s.complete (.value (payloadWord s.input))) := by
  rw [execDecode_rightLength s (by omega) hl, if_neg (not_not_intro hcrc),
    if_neg (not_not_intro h9)]

/-- Settles O22: the four results of DECODE, the comparison of the trailer being the test of the
residue. -/
theorem decodeReportsTheFirstFailingCheck : Obligations.DecodeReportsTheFirstFailingCheck := by
  intro s body lo hi hc hin
  have hzero : crc16 s.input = 0 ↔ crc16 body = joinWord hi lo :=
    hin ▸ crc16_append_two_eq_zero_iff body lo hi
  refine ⟨execDecode_wrongLength s hc, fun hl hcrc => ?_, fun hl hcrc hpay => ?_,
    fun hl hcrc hpay => ?_⟩
  · exact execDecode_residue_ne_zero s hc hl (mt hzero.mp hcrc)
  · exact execDecode_malformedPayload s hc hl (hzero.mpr hcrc) (by omega)
  · exact execDecode_value s hl (hzero.mpr hcrc) (by omega)

/-- Settles O23: no check looks at the header, and the payload word of the bytes of `w` is `w`. -/
theorem decodeReturnsEveryPayloadUnchanged : Obligations.DecodeReturnsEveryPayloadUnchanged := by
  intro s b0 b1 b2 w lo hi hresp hin hcrc
  have hzero : crc16 s.input = 0 := hin ▸ (crc16_append_two_eq_zero_iff _ lo hi).mpr hcrc
  have hword : payloadWord s.input = w := by rw [hin]; exact append_bytes w
  have he := execDecode_value s (by rw [hin, hresp]; rfl) hzero hresp
  rw [hword] at he
  exact ⟨_, he, rfl, readStatus_some _ (.value w) rfl⟩

/-- Settles O24: of DECODE's four results RESP_LEN 9 excludes MalformedPayload. -/
theorem malformedPayloadUnreachableAtNine : Obligations.MalformedPayloadUnreachableAtNine := by
  intro s h9
  obtain ⟨r, he, hr⟩ := execDecode_cases s (by omega)
  refine ⟨_, he, fun hres => ?_⟩
  obtain rfl : r = .err .malformedPayload := Option.some.inj hres
  obtain ⟨_, h, -⟩ | h | h | ⟨-, hne⟩ := hr
  · cases h
  · cases h
  · cases h
  · exact hne h9

/-- Settles O25: every check that fails leaves an error in RES, and with none failing the value is
the payload word. -/
theorem valueOnlyFromAValidFrame : Obligations.ValueOnlyFromAValidFrame := by
  intro s t w h hres
  by_cases hc : s.respLen < 5
  · cases h.symm.trans (execDecode_illegal s hc)
  by_cases hl : s.input.length ≠ s.respLen
  · cases h.symm.trans (execDecode_wrongLength s (by omega) hl)
    cases hres
  have he := h.symm.trans (execDecode_rightLength s (by omega) (not_not.mp hl))
  split_ifs at he with hcrc hpay
  · cases he
    cases hres
  · cases he
    cases hres
  · cases he
    cases hres
    exact ⟨by omega, by omega, not_not.mp hcrc, rfl⟩

/-! ## What a poll records for a read -/

/-- The block in which `measurementFor` runs DECODE. -/
def blockReading (n : Nat) (raw : List Byte) : State :=
  { State.reset with respLen := n, input := raw }

theorem measurementFor_of_execDecode {n : Nat} {raw : List Byte} {r : Result}
    (h : execDecode (blockReading n raw) = .next ((blockReading n raw).complete r)) :
    measurementFor n raw = measurementOf r := by
  unfold measurementFor
  rw [show exec .decode { State.reset with respLen := n, input := raw } = _ from h]
  rfl

theorem eq_value_of_measurementOf {r : Result} {w : Bits32}
    (h : measurementOf r = some (.value w)) : r = .value w := by
  cases r with
  | crc lo hi => cases h
  | frame f => cases h
  | value bits => cases h; rfl
  | err e => cases h

/-- Settles O49: DECODE ends in a value or an error, each of which is a measurement, and a recorded
value is one that DECODE left. -/
theorem unavailableUnlessAValidFrame : Obligations.UnavailableUnlessAValidFrame := by
  intro n raw hn
  obtain ⟨r, he, hr⟩ := execDecode_cases (blockReading n raw) hn
  have hm := measurementFor_of_execDecode he
  refine ⟨?_, fun hl => ?_, fun w hw => ?_⟩
  · rw [hm]
    obtain ⟨_, rfl, -⟩ | rfl | rfl | ⟨rfl, -⟩ := hr
    · exact ⟨_, rfl⟩
    · exact ⟨_, rfl⟩
    · exact ⟨_, rfl⟩
    · exact ⟨_, rfl⟩
  · exact measurementFor_of_execDecode (execDecode_wrongLength (blockReading n raw) hn hl)
  · obtain rfl := eq_value_of_measurementOf (hm.symm.trans hw)
    obtain ⟨h9, hlen, hcrc, -⟩ := valueOnlyFromAValidFrame (blockReading n raw) _ w he rfl
    exact ⟨h9, hlen, hcrc⟩

end Sys2Proof.Machine
end

section
/-! The binary32 reading: its three fields are all of a pattern, and every reading but NaN names all
three (rule R145). -/

namespace Sys2Proof.Machine

open Sys2Proof

/-! ## The fields of a pattern -/

theorem extractLsb'_sign (w : Bits32) : w.extractLsb' 31 1 = BitVec.ofBool (signBit w) := by
  ext i hi
  obtain rfl : i = 0 := by omega
  simp [signBit]

theorem append_fields (w : Bits32) :
    BitVec.ofBool (signBit w) ++ w.extractLsb' 23 8 ++ w.extractLsb' 0 23 = w := by
  rw [← extractLsb'_sign, BitVec.extractLsb'_append_extractLsb'_eq_extractLsb' (by rfl),
    BitVec.extractLsb'_append_extractLsb'_eq_extractLsb' (by rfl)]
  exact BitVec.extractLsb'_eq_self

theorem eq_of_fields {w w' : Bits32} (hs : signBit w = signBit w')
    (he : exponentField w = exponentField w') (hf : fractionField w = fractionField w') :
    w = w' := by
  rw [← append_fields w, ← append_fields w', hs, BitVec.eq_of_toNat_eq he,
    BitVec.eq_of_toNat_eq hf]

/-! ## The fields of a reading -/

/-- Sign, exponent and fraction of the pattern with this reading; a NaN keeps one bit only. -/
def Reading.fields? : Reading → Option (Bool × Nat × Nat)
  | .zero neg => some (neg, 0, 0)
  | .subnormal neg f => some (neg, 0, f)
  | .normal neg e f => some (neg, e, f)
  | .infinity neg => some (neg, 255, 0)
  | .nan _ => none

theorem readBinary32_fields? (w : Bits32) (h : ∀ q, readBinary32 w ≠ .nan q) :
    (readBinary32 w).fields? = some (signBit w, exponentField w, fractionField w) := by
  unfold readBinary32 at h ⊢
  dsimp only at h ⊢
  split_ifs at h ⊢ with he hf he' hf
  · rw [he, hf]; rfl
  · rw [he]; rfl
  · rw [he', hf]; rfl
  · exact absurd rfl (h _)
  · rfl

theorem readBinary32_350 : readBinary32 0x43AF0000 = .normal false 135 0x2F0000 := by decide

/-- Settles O42: 350 is `2^8 * (1 + 0x2F0000 / 2^23)`; and equal readings that are no NaN come from
equal fields. -/
theorem binary32ReadingLosesNothing : Obligations.Binary32ReadingLosesNothing := by
  refine ⟨?_, fun w w' h hnan => ?_⟩
  · rw [readBinary32_350]
    norm_num [readingValue, signValue]
  · have hfields : some (signBit w, exponentField w, fractionField w) =
        some (signBit w', exponentField w', fractionField w') := by
      rw [← readBinary32_fields? w hnan, ← readBinary32_fields? w' (h ▸ hnan), h]
    simp only [Option.some.injEq, Prod.mk.injEq] at hfields
    obtain ⟨hs, he, hf⟩ := hfields
    exact eq_of_fields hs he hf

end Sys2Proof.Machine
end

section
/-! The block under the host: what the two written commands of an exchange leave in a block that is
between its commands (rules R171, R173, R177). -/

namespace Sys2Proof.Machine

open Sys2Proof

/-- The block as the host model keeps it: between two commands, and meeting its own invariant. -/
def State.atRest (s : State) : Prop := s.inv = true ∧ s.phase = .idle

theorem State.atRest.respLen_ge {s : State} (hs : s.atRest) : 5 ≤ s.respLen := (s.inv_iff.mp hs.1).1

/-- A written command leaves a sound block at rest again, under the same configuration. -/
theorem runCommand_next_atRest {c : Command} {s : State} {r : Result} (hs : s.atRest)
    (h : runCommand c s = .next ((s.issued c).complete r)) : ((s.issued c).complete r).atRest := by
  obtain ⟨-, -, -, hsound⟩ := hostMovesKeepTheBlockSound s hs.1
  exact ⟨hsound c _ h, rfl⟩

/-- BUILD for a quantity leaves its request in RES (R171). -/
theorem runCommand_readReq (sid : Byte) (q : Quantity) {s : State} (hs : s.atRest) :
    ∃ b, runCommand (readReq sid.toNat q.address.toNat) s = .next b ∧ b.atRest ∧
      b.respLen = s.respLen ∧ b.res = some (.frame (requestFor sid q)) := by
  obtain ⟨t, f, hrun, hf, hres, -, hlen⟩ :=
    runCommand_build sid Config.fcReadInput q.address Config.qtyPerRead s hs.respLen_ge hs.2
  obtain ⟨r, hr⟩ := runCommand_completes (readReq sid.toNat q.address.toNat) s
    ((wellFormed_build_iff ..).mpr
      ⟨fitsByte_toNat sid, fitsByte_toNat _, fitsWord_toNat q.address, fitsWord_toNat _⟩)
    hs.respLen_ge hs.2
  cases hrun.symm.trans hr
  rw [buildFrame_eq] at hf
  cases hf
  exact ⟨_, hrun, runCommand_next_atRest hs hrun, hlen, hres⟩

/-- DECODE of a read leaves in RES the result whose measurement is that of the bytes read (R177). -/
theorem runCommand_decode (raw : List Byte) {s : State} (hs : s.atRest) :
    ∃ b r m, runCommand (.decode (raw.map BitVec.toNat)) s = .next b ∧ b.atRest ∧ b.res = some r ∧
      measurementOf r = some m ∧ measurementFor s.respLen raw = some m := by
  have hrun := runCommand_operation (.decode (raw.map BitVec.toNat)) .decode s
    (all_fitsByte_toNat raw) hs.respLen_ge hs.2 rfl
  have hin : (s.issued (.decode (raw.map BitVec.toNat))).input = raw := by
    simp [State.issued, operandWrites, Function.comp_def]
  obtain ⟨r, he, he'⟩ := execDecode_congr (s.issued (.decode (raw.map BitVec.toNat)))
    (blockReading s.respLen raw) hin (s.issued_respLen _) (by simpa using hs.respLen_ge)
  have hm := measurementFor_of_execDecode he'
  obtain ⟨m, hm'⟩ := (unavailableUnlessAValidFrame s.respLen raw hs.respLen_ge).1
  exact ⟨_, r, m, hrun.trans he, runCommand_next_atRest hs (hrun.trans he), rfl,
    hm.symm.trans hm', hm'⟩

theorem holdsDecoded_of_measurementOf {s : State} {r : Result} {m : Measurement}
    (hr : s.res = some r) (hm : measurementOf r = some m) : holdsDecoded s = true := by
  simp [holdsDecoded, hr, hm]

theorem exists_measurementOf_of_holdsDecoded {s : State} (hs : holdsDecoded s = true) :
    ∃ r m, s.res = some r ∧ measurementOf r = some m := by
  unfold holdsDecoded at hs
  split at hs
  · obtain ⟨m, hm⟩ := Option.isSome_iff_exists.mp hs
    exact ⟨_, m, ‹_›, hm⟩
  · cases hs

end Sys2Proof.Machine
end

section
/-! The host model: one rule per action of an exchange, everything a step can do from a sound state,
and what follows of it for a step, an exchange and a cycle (rules R170 to R179). -/

namespace Sys2Proof.Machine

open Sys2Proof

/-! ## The register map -/

/-- Settles O43: `pollOrder` and `Quantity.address` are the table. -/
theorem registerMap : Obligations.RegisterMap := rfl

theorem before_of_next?_eq_some {q q' : Quantity} (hq : q.next? = some q') :
    q'.before = q.before ++ [q] := by
  cases q <;> cases hq <;> rfl

theorem before_append_of_next?_eq_none {q : Quantity} (hq : q.next? = none) :
    q.before ++ [q] = pollOrder := by
  cases q <;> cases hq
  rfl

/-! ## Positions between cycles -/

theorem PollPos.between_iff (p : PollPos) : p.between = true ↔ p = .idle ∨ p = .aborted := by
  cases p <;> simp [PollPos.between]

/-! ## The action that records -/

theorem PollState.record_of_next?_eq_some {q q' : Quantity} (h : PollState) (m : Measurement)
    (hq : q.next? = some q') :
    h.record q m = { h with pos := .build q', results := h.results ++ [(q, m)] } := by
  unfold PollState.record
  rw [hq]

theorem PollState.record_of_next?_eq_none {q : Quantity} (h : PollState) (m : Measurement)
    (hq : q.next? = none) :
    h.record q m =
      { h with pos := .idle, results := [], handed := some (h.results ++ [(q, m)]) } := by
  unfold PollState.record
  rw [hq]

@[simp] theorem PollState.record_sent (h : PollState) (q : Quantity) (m : Measurement) :
    (h.record q m).sent = h.sent := by
  unfold PollState.record
  split <;> rfl

@[simp] theorem PollState.record_slaveId (h : PollState) (q : Quantity) (m : Measurement) :
    (h.record q m).slaveId = h.slaveId := by
  unfold PollState.record
  split <;> rfl

/-! ## The rule of each action -/

theorem pollStep_between (d : Draw) {h : PollState} (hb : h.pos.between = true) :
    pollStep d h = .next h := by
  unfold pollStep
  obtain hpos | hpos := h.pos.between_iff.mp hb
  · rw [hpos]
  · rw [hpos]

section Rules
variable (d : Draw) {h : PollState} {q : Quantity}

theorem pollStep_build (hpos : h.pos = .build q) (hs : h.block.atRest) :
    ∃ b, pollStep d h = .next { h with block := b, pos := .write q (requestFor h.slaveId q) } ∧
      b.atRest ∧ b.respLen = h.block.respLen := by
  obtain ⟨b, hrun, hb, hlen, hres⟩ := runCommand_readReq h.slaveId q hs
  refine ⟨b, ?_, hb, hlen⟩
  simp only [pollStep, hpos, pollBuild, hrun, readRes_some b _ hres]

theorem pollStep_write_ok {f : Frame} (hpos : h.pos = .write q f) (hd : d.writeOk = true) :
    pollStep d h = .next { h with pos := .wait q, sent := h.sent ++ [f] } := by
  simp only [pollStep, hpos, pollWrite, hd, if_true]

theorem pollStep_write_failed {f : Frame} (hpos : h.pos = .write q f) (hd : d.writeOk = false) :
    pollStep d h = .next h.abort := by
  simp [pollStep, hpos, pollWrite, hd]

theorem pollStep_wait (hpos : h.pos = .wait q) :
    pollStep d h = .next { h with pos := .read q } := by
  simp only [pollStep, hpos]

theorem transportRead_ok (hd : d.readOk = true) (n : Nat) :
    transportRead n d = some (d.raw.take n) :=
  if_pos hd

theorem transportRead_failed (hd : d.readOk = false) (n : Nat) : transportRead n d = none :=
  if_neg (by simp [hd])

theorem pollStep_read_ok (hpos : h.pos = .read q) (hd : d.readOk = true) :
    pollStep d h = .next { h with pos := .decode q (d.raw.take h.block.respLen) } := by
  simp only [pollStep, hpos, pollRead, transportRead_ok d hd]

theorem pollStep_read_failed (hpos : h.pos = .read q) (hd : d.readOk = false) :
    pollStep d h = .next h.abort := by
  simp only [pollStep, hpos, pollRead, transportRead_failed d hd]

theorem pollStep_decode {raw : List Byte} (hpos : h.pos = .decode q raw) (hs : h.block.atRest) :
    ∃ b r m, pollStep d h = .next { h with block := b, pos := .record q } ∧ b.atRest ∧
      b.res = some r ∧ measurementOf r = some m ∧
      measurementFor h.block.respLen raw = some m := by
  obtain ⟨b, r, m, hrun, hb, hres, hm, hfor⟩ := runCommand_decode raw hs
  refine ⟨b, r, m, ?_, hb, hres, hm, hfor⟩
  simp only [pollStep, hpos, pollDecode, hrun]

theorem pollStep_record {r : Result} {m : Measurement} (hpos : h.pos = .record q)
    (hr : h.block.res = some r) (hm : measurementOf r = some m) :
    pollStep d h = .next (h.record q m) := by
  simp only [pollStep, hpos, pollRecord, readRes_some _ r hr, hm]

end Rules

/-! ## The invariant at each position -/

section Invariant
variable {h : PollState} {q : Quantity}

theorem PollState.inv.atRest (hi : h.inv) : h.block.atRest := ⟨hi.1, hi.2.1⟩

theorem PollState.inv_idle (hpos : h.pos = .idle) :
    h.inv ↔ h.block.atRest ∧ h.results = [] ∧
      ((h.handed = none ∧ h.sent = []) ∨
        (h.handed.map (List.map Prod.fst) = some pollOrder ∧
          h.sent = pollOrder.map (requestFor h.slaveId))) := by
  simp only [PollState.inv, hpos, State.atRest, and_assoc]

theorem PollState.inv_build (hpos : h.pos = .build q) :
    h.inv ↔ h.block.atRest ∧ h.running q q.before := by
  simp only [PollState.inv, hpos, State.atRest, and_assoc]

theorem PollState.inv_write {f : Frame} (hpos : h.pos = .write q f) :
    h.inv ↔ h.block.atRest ∧ h.running q q.before ∧ f = requestFor h.slaveId q := by
  simp only [PollState.inv, hpos, State.atRest, and_assoc]

theorem PollState.inv_wait (hpos : h.pos = .wait q) :
    h.inv ↔ h.block.atRest ∧ h.running q (q.before ++ [q]) := by
  simp only [PollState.inv, hpos, State.atRest, and_assoc]

theorem PollState.inv_read (hpos : h.pos = .read q) :
    h.inv ↔ h.block.atRest ∧ h.running q (q.before ++ [q]) := by
  simp only [PollState.inv, hpos, State.atRest, and_assoc]

theorem PollState.inv_decode {raw : List Byte} (hpos : h.pos = .decode q raw) :
    h.inv ↔ h.block.atRest ∧ h.running q (q.before ++ [q]) ∧ raw.length ≤ h.block.respLen := by
  simp only [PollState.inv, hpos, State.atRest, and_assoc]

theorem PollState.inv_record (hpos : h.pos = .record q) :
    h.inv ↔ h.block.atRest ∧ h.running q (q.before ++ [q]) ∧ holdsDecoded h.block = true := by
  simp only [PollState.inv, hpos, State.atRest, and_assoc]

theorem PollState.inv_aborted (hpos : h.pos = .aborted) :
    h.inv ↔ h.block.atRest ∧ h.results = [] ∧ h.handed = none := by
  simp only [PollState.inv, hpos, State.atRest, and_assoc]

/-- A transport fault ends a running cycle soundly (R179). -/
theorem PollState.abort_inv {requested : List Quantity} (hs : h.block.atRest)
    (hrun : h.running q requested) : h.abort.inv := by
  obtain ⟨-, -, hhanded⟩ := hrun
  exact (PollState.inv_aborted rfl).mpr ⟨hs, rfl, hhanded⟩

/-- Recording goes on soundly to the next quantity or hands a whole set on (R176, R177). -/
theorem PollState.record_inv (m : Measurement) (hs : h.block.atRest)
    (hrun : h.running q (q.before ++ [q])) : (h.record q m).inv := by
  obtain ⟨hres, hsent, hhanded⟩ := hrun
  have hnames : (h.results ++ [(q, m)]).map Prod.fst = q.before ++ [q] := by simp [hres]
  cases hq : q.next? with
  | some q' =>
    rw [h.record_of_next?_eq_some m hq, PollState.inv_build rfl, before_of_next?_eq_some hq]
    exact ⟨hs, hnames.trans (before_of_next?_eq_some hq).symm, hsent, hhanded⟩
  | none =>
    rw [before_append_of_next?_eq_none hq] at hnames hsent
    rw [h.record_of_next?_eq_none m hq, PollState.inv_idle rfl]
    exact ⟨hs, rfl, .inr ⟨congrArg some hnames, hsent⟩⟩

end Invariant

/-! ## Everything a step can do -/

/-- What a step of the host model does from a sound state: it waits between cycles, or it takes the
action its position names, with the two ways a write and a read can go. -/
inductive PollAction (d : Draw) (h : PollState) : PollState → Prop where
  | rests (hb : h.pos.between = true) : PollAction d h h
  | builds (q : Quantity) (b : State) (hpos : h.pos = .build q) (hb : b.atRest) :
    PollAction d h { h with block := b, pos := .write q (requestFor h.slaveId q) }
  | writes (q : Quantity) (f : Frame) (hpos : h.pos = .write q f) (hd : d.writeOk = true) :
    PollAction d h { h with pos := .wait q, sent := h.sent ++ [f] }
  | failsToWrite (q : Quantity) (f : Frame) (hpos : h.pos = .write q f) (hd : d.writeOk = false) :
    PollAction d h h.abort
  | waits (q : Quantity) (hpos : h.pos = .wait q) : PollAction d h { h with pos := .read q }
  | reads (q : Quantity) (hpos : h.pos = .read q) (hd : d.readOk = true) :
    PollAction d h { h with pos := .decode q (d.raw.take h.block.respLen) }
  | failsToRead (q : Quantity) (hpos : h.pos = .read q) (hd : d.readOk = false) :
    PollAction d h h.abort
  | decodes (q : Quantity) (raw : List Byte) (b : State) (hpos : h.pos = .decode q raw)
      (hb : b.atRest) (hdec : holdsDecoded b = true) :
    PollAction d h { h with block := b, pos := .record q }
  | records (q : Quantity) (m : Measurement) (hpos : h.pos = .record q) :
    PollAction d h (h.record q m)

/-- From a sound state a step is one of these actions. -/
theorem pollStep_action (d : Draw) {h : PollState} (hi : h.inv) :
    ∃ h', pollStep d h = .next h' ∧ PollAction d h h' := by
  cases hpos : h.pos with
  | idle =>
    have hb : h.pos.between = true := by rw [hpos]; rfl
    exact ⟨_, pollStep_between d hb, .rests hb⟩
  | build q =>
    obtain ⟨b, hstep, hb, -⟩ := pollStep_build d hpos hi.atRest
    exact ⟨_, hstep, .builds q b hpos hb⟩
  | write q f =>
    cases hd : d.writeOk with
    | true => exact ⟨_, pollStep_write_ok d hpos hd, .writes q f hpos hd⟩
    | false => exact ⟨_, pollStep_write_failed d hpos hd, .failsToWrite q f hpos hd⟩
  | wait q => exact ⟨_, pollStep_wait d hpos, .waits q hpos⟩
  | read q =>
    cases hd : d.readOk with
    | true => exact ⟨_, pollStep_read_ok d hpos hd, .reads q hpos hd⟩
    | false => exact ⟨_, pollStep_read_failed d hpos hd, .failsToRead q hpos hd⟩
  | decode q raw =>
    obtain ⟨b, r, m, hstep, hb, hr, hm, -⟩ := pollStep_decode d hpos hi.atRest
    exact ⟨_, hstep, .decodes q raw b hpos hb (holdsDecoded_of_measurementOf hr hm)⟩
  | record q =>
    obtain ⟨-, -, hdec⟩ := (PollState.inv_record hpos).mp hi
    obtain ⟨r, m, hr, hm⟩ := exists_measurementOf_of_holdsDecoded hdec
    exact ⟨_, pollStep_record d hpos hr hm, .records q m hpos⟩
  | aborted =>
    have hb : h.pos.between = true := by rw [hpos]; rfl
    exact ⟨_, pollStep_between d hb, .rests hb⟩

/-- Every action keeps the invariant of the host model. -/
theorem PollAction.inv {d : Draw} {h h' : PollState} (ha : PollAction d h h') (hi : h.inv) :
    h'.inv := by
  cases ha with
  | rests hb => exact hi
  | builds q b hpos hb =>
    obtain ⟨-, hrun⟩ := (PollState.inv_build hpos).mp hi
    exact (PollState.inv_write rfl).mpr ⟨hb, hrun, rfl⟩
  | writes q f hpos hd =>
    obtain ⟨hs, ⟨hres, hsent, hhanded⟩, rfl⟩ := (PollState.inv_write hpos).mp hi
    exact (PollState.inv_wait rfl).mpr ⟨hs, hres, by simp [hsent], hhanded⟩
  | failsToWrite q f hpos hd =>
    obtain ⟨hs, hrun, -⟩ := (PollState.inv_write hpos).mp hi
    exact PollState.abort_inv hs hrun
  | waits q hpos => exact (PollState.inv_read rfl).mpr ((PollState.inv_wait hpos).mp hi)
  | reads q hpos hd =>
    obtain ⟨hs, hrun⟩ := (PollState.inv_read hpos).mp hi
    exact (PollState.inv_decode rfl).mpr ⟨hs, hrun, List.length_take_le _ _⟩
  | failsToRead q hpos hd =>
    obtain ⟨hs, hrun⟩ := (PollState.inv_read hpos).mp hi
    exact PollState.abort_inv hs hrun
  | decodes q raw b hpos hb hdec =>
    obtain ⟨-, hrun, -⟩ := (PollState.inv_decode hpos).mp hi
    exact (PollState.inv_record rfl).mpr ⟨hb, hrun, hdec⟩
  | records q m hpos =>
    obtain ⟨hs, hrun, -⟩ := (PollState.inv_record hpos).mp hi
    exact PollState.record_inv m hs hrun

/-- Settles O44: a step is one of the actions, and each keeps the invariant. -/
theorem pollStepKeepsTheCycleSound : Obligations.PollStepKeepsTheCycleSound := by
  intro d h hi
  obtain ⟨h', hstep, ha⟩ := pollStep_action d hi
  exact ⟨h', hstep, ha.inv hi⟩

/-! ## Starting a cycle -/

theorem pollAll_between (sid : Byte) {h : PollState} (hb : h.pos.between = true) :
    pollAll sid h = .next { h with
      slaveId := sid, pos := .build .voltage, sent := [], results := [], handed := none } :=
  if_pos hb

theorem pollAll_running (sid : Byte) {h : PollState} (hb : h.pos.between = false) :
    pollAll sid h = .refused .cycleRunning :=
  if_neg (by simp [hb])

/-- Settles O45: no quantity comes before Voltage, so the empty set is the one the invariant asks
for. -/
theorem cycleStartsFresh : Obligations.CycleStartsFresh := by
  intro sid h hi
  refine ⟨fun hb => ⟨_, pollAll_between sid hb, ?_, rfl, rfl, rfl, rfl⟩, pollAll_running sid⟩
  exact (PollState.inv_build rfl).mpr ⟨hi.atRest, rfl, rfl, rfl⟩

/-! ## Runs -/

theorem pollRun_cons {d : Draw} {h h' : PollState} (hstep : pollStep d h = .next h')
    (ds : List Draw) : pollRun (d :: ds) h = pollRun ds h' := by
  simp only [pollRun, hstep]

theorem pollRun_between {h : PollState} (hb : h.pos.between = true) (ds : List Draw) :
    pollRun ds h = .next h := by
  induction ds with
  | nil => rfl
  | cons d ds ih => rw [pollRun_cons (pollStep_between d hb), ih]

/-- Settles O48: both faults lead to `h.abort`, a position between cycles. -/
theorem transportFaultEndsTheCycle : Obligations.TransportFaultEndsTheCycle := by
  intro h d q hi hfault
  suffices hs : pollStep d h = .next h.abort ∧ h.handed = none from
    ⟨h.abort, hs.1, rfl, rfl, hs.2, pollRun_between rfl⟩
  obtain ⟨⟨f, hpos⟩, hd⟩ | ⟨hpos, hd⟩ := hfault
  · obtain ⟨-, ⟨-, -, hhanded⟩, -⟩ := (PollState.inv_write hpos).mp hi
    exact ⟨pollStep_write_failed d hpos hd, hhanded⟩
  · obtain ⟨-, -, -, hhanded⟩ := (PollState.inv_read hpos).mp hi
    exact ⟨pollStep_read_failed d hpos hd, hhanded⟩

/-- The six actions of an exchange with a working transport: the request of `q` is sent and the
measurement for the bytes read is recorded (R173). -/
theorem pollRun_exchange {h : PollState} {q : Quantity} (d1 d2 d3 d4 d5 d6 : Draw)
    (hs : h.block.atRest) (hpos : h.pos = .build q) (hw : d2.writeOk = true)
    (hr : d4.readOk = true) :
    ∃ b m, pollRun [d1, d2, d3, d4, d5, d6] h =
        .next (PollState.record { h with
          block := b, pos := .record q, sent := h.sent ++ [requestFor h.slaveId q] } q m) ∧
      measurementFor h.block.respLen (d4.raw.take h.block.respLen) = some m := by
  obtain ⟨b₁, hbuild, hb₁, hlen⟩ := pollStep_build d1 hpos hs
  rw [pollRun_cons hbuild, pollRun_cons (pollStep_write_ok d2 rfl hw),
    pollRun_cons (pollStep_wait d3 rfl), pollRun_cons (pollStep_read_ok d4 rfl hr), ← hlen]
  obtain ⟨b₂, r, m, hdecode, -, hres, hm, hfor⟩ := pollStep_decode (q := q) d5
    (h := { h with
      block := b₁
      pos := .decode q (d4.raw.take b₁.respLen)
      sent := h.sent ++ [requestFor h.slaveId q] }) rfl hb₁
  rw [pollRun_cons hdecode, pollRun_cons (pollStep_record d6 rfl hres hm)]
  exact ⟨b₂, m, rfl, hfor⟩

/-- Settles O46: the last of the six actions records, and goes on or hands on by `Quantity.next?`.
-/
theorem exchangeRecordsWhatWasRead : Obligations.ExchangeRecordsWhatWasRead := by
  intro h q d1 d2 d3 d4 d5 d6 hi hpos hw hr
  obtain ⟨hs, -, -, hhanded⟩ := (PollState.inv_build hpos).mp hi
  obtain ⟨b, m, hrun, hfor⟩ := pollRun_exchange d1 d2 d3 d4 d5 d6 hs hpos hw hr
  refine ⟨_, m, hrun, hfor, PollState.record_sent .., ?_⟩
  cases hq : q.next? with
  | some q' =>
    rw [PollState.record_of_next?_eq_some _ m hq]
    exact ⟨rfl, rfl, hhanded⟩
  | none =>
    rw [PollState.record_of_next?_eq_none _ m hq]
    exact ⟨rfl, rfl⟩

/-! ## A whole cycle -/

/-- How many quantities are polled after this one in the cycle (R172). -/
def Quantity.later (q : Quantity) : Nat := pollOrder.length - (q.before.length + 1)

theorem Quantity.later_of_next?_eq_some {q q' : Quantity} (hq : q.next? = some q') :
    q.later = q'.later + 1 := by
  cases q <;> cases hq <;> rfl

theorem Quantity.later_of_next?_eq_none {q : Quantity} (hq : q.next? = none) : q.later = 0 := by
  cases q <;> cases hq
  rfl

/-- How many steps the cycle has still to go when no write and no read fails: six for each exchange
(log entry 16). -/
def PollPos.stepsLeft : PollPos → Nat
  | .idle => 0
  | .build q => 6 * q.later + 6
  | .write q _ => 6 * q.later + 5
  | .wait q => 6 * q.later + 4
  | .read q => 6 * q.later + 3
  | .decode q _ => 6 * q.later + 2
  | .record q => 6 * q.later + 1
  | .aborted => 0

/-- With a working transport an action of a running cycle is one step nearer to its end, and the
last one hands the set on. -/
theorem PollAction.advances {d : Draw} {h h' : PollState} (ha : PollAction d h h')
    (hw : d.writeOk = true) (hr : d.readOk = true) (hrun : h.pos.between = false) :
    (h'.pos.between = false ∧ h.pos.stepsLeft = h'.pos.stepsLeft + 1) ∨
      (h.pos.stepsLeft = 1 ∧ h'.pos = .idle ∧ h'.handed ≠ none) := by
  cases ha with
  | rests hb => cases hb.symm.trans hrun
  | builds q b hpos hb => exact .inl ⟨rfl, by rw [hpos]; rfl⟩
  | writes q f hpos hd => exact .inl ⟨rfl, by rw [hpos]; rfl⟩
  | failsToWrite q f hpos hd => cases hw.symm.trans hd
  | waits q hpos => exact .inl ⟨rfl, by rw [hpos]; rfl⟩
  | reads q hpos hd => exact .inl ⟨rfl, by rw [hpos]; rfl⟩
  | failsToRead q hpos hd => cases hr.symm.trans hd
  | decodes q raw b hpos hb hdec => exact .inl ⟨rfl, by rw [hpos]; rfl⟩
  | records q m hpos =>
    cases hq : q.next? with
    | some q' =>
      rw [h.record_of_next?_eq_some m hq, hpos]
      refine .inl ⟨rfl, ?_⟩
      rw [PollPos.stepsLeft, PollPos.stepsLeft, q.later_of_next?_eq_some hq, Nat.mul_succ]
    | none =>
      rw [h.record_of_next?_eq_none m hq, hpos]
      refine .inr ⟨?_, rfl, Option.some_ne_none _⟩
      rw [PollPos.stepsLeft, q.later_of_next?_eq_none hq]

theorem PollAction.slaveId_eq {d : Draw} {h h' : PollState} (ha : PollAction d h h') :
    h'.slaveId = h.slaveId := by
  cases ha with
  | records q m hpos => exact h.record_slaveId q m
  | _ => rfl

/-- A running cycle that meets no transport fault ends in as many steps as are left, handing on. -/
theorem pollRun_finishes (ds : List Draw) (h : PollState) (hi : h.inv)
    (hrun : h.pos.between = false) (hlen : ds.length = h.pos.stepsLeft)
    (hok : ∀ d ∈ ds, d.writeOk = true ∧ d.readOk = true) :
    ∃ h', pollRun ds h = .next h' ∧ h'.inv ∧ h'.slaveId = h.slaveId ∧ h'.pos = .idle ∧
      h'.handed ≠ none := by
  induction ds generalizing h with
  | nil =>
    cases hpos : h.pos with
    | idle => simp [hpos, PollPos.between] at hrun
    | aborted => simp [hpos, PollPos.between] at hrun
    | _ => simp [hpos, PollPos.stepsLeft] at hlen
  | cons d ds ih =>
    obtain ⟨h₁, hstep, ha⟩ := pollStep_action d hi
    obtain ⟨⟨hw, hr⟩, hok⟩ := List.forall_mem_cons.mp hok
    rw [List.length_cons] at hlen
    rw [pollRun_cons hstep, ← ha.slaveId_eq]
    obtain ⟨hrun₁, hleft⟩ | ⟨hleft, hidle, hhanded⟩ := ha.advances hw hr hrun
    · exact ih h₁ (ha.inv hi) hrun₁ (by omega) hok
    · obtain rfl : ds = [] := List.eq_nil_of_length_eq_zero (by omega)
      exact ⟨h₁, rfl, ha.inv hi, rfl, hidle, hhanded⟩

/-- A whole cycle that meets no transport fault: the eight names are handed on and the eight
requests were sent, both in order (R176, R178). -/
theorem pollRun_cycle {h : PollState} {ds : List Draw} (hi : h.inv) (hpos : h.pos = .build .voltage)
    (hlen : ds.length = 48) (hok : ∀ d ∈ ds, d.writeOk = true ∧ d.readOk = true) :
    ∃ h', pollRun ds h = .next h' ∧ h'.pos = .idle ∧
      h'.handed.map (List.map Prod.fst) = some pollOrder ∧
      h'.sent = pollOrder.map (requestFor h.slaveId) := by
  obtain ⟨h', hrun, hi', hsid, hidle, hhanded⟩ :=
    pollRun_finishes ds h hi (by rw [hpos]; rfl) (by rw [hlen, hpos]; rfl) hok
  obtain ⟨-, -, ⟨hnone, -⟩ | ⟨hnames, hsent⟩⟩ := (PollState.inv_idle hidle).mp hi'
  · exact absurd hnone hhanded
  · exact ⟨h', hrun, hidle, hnames, hsid ▸ hsent⟩

/-- Settles O47: the set handed on at the end of the cycle is the one of `pollRun_cycle`. -/
theorem cycleAttemptsAllEight : Obligations.CycleAttemptsAllEight := by
  intro h ds hi hpos hlen hok
  obtain ⟨h', hrun, hidle, hnames, hsent⟩ := pollRun_cycle hi hpos hlen hok
  obtain ⟨rs, hhanded, hrs⟩ := Option.map_eq_some_iff.mp hnames
  exact ⟨h', rs, hrun, hidle, hhanded, hrs, hsent⟩

end Sys2Proof.Machine
end

section
/-! Several pollers on one transport: the exchange in flight follows the holder's position, every
step keeps the polls serialised, and a poll on a free transport is the holder's own run (rules R51,
R181, R211). -/

namespace Sys2Proof.Machine

open Sys2Proof

/-! ## The exchange in flight -/

/-- The exchange in flight while the poller at place `k` stands at a position (R176). -/
def PollPos.exchange (k : Nat) (p : PollPos) : Option Nat :=
  match p.cycleState with
  | .idle => none
  | .requesting _ => none
  | .awaitingResponse _ => some k
  | .decoding _ => none

theorem PollPos.exchange_between (k : Nat) {p : PollPos} (hb : p.between = true) :
    p.exchange k = none := by
  obtain rfl | rfl := p.between_iff.mp hb
  · rfl
  · rfl

theorem BusState.inFlight_free {b : BusState} (hb : b.holder = none) : b.inFlight = none := by
  simp only [BusState.inFlight, hb]

theorem BusState.inFlight_held {b : BusState} {k : Nat} {h : PollState} (hb : b.holder = some k)
    (hk : b.pollers[k]? = some h) : b.inFlight = h.pos.exchange k := by
  simp only [BusState.inFlight, hb, hk]
  rfl

/-- After a move the exchange in flight is the one of the poller that moved. -/
theorem BusState.moved_inFlight (b : BusState) {k : Nat} (h : PollState) (events : List BusEvent)
    (hk : k < b.pollers.length) : (b.moved k h events).inFlight = h.pos.exchange k := by
  cases hb : h.pos.between with
  | true =>
    rw [BusState.inFlight_free ((b.moved_holder_eq_none_iff k h events).mpr hb),
      PollPos.exchange_between k hb]
  | false =>
    exact BusState.inFlight_held (by simp [hb]) (b.moved_self k h events hk)

section Traffic
variable (d : Draw) (k : Nat) {h : PollState} {q : Quantity}

theorem busTraffic_write_ok {f : Frame} (hpos : h.pos = .write q f) (hd : d.writeOk = true) :
    busTraffic d k h = [.request k f] := by
  simp only [busTraffic, hpos, hd, if_true]

theorem busTraffic_read_ok (hpos : h.pos = .read q) (hd : d.readOk = true) :
    busTraffic d k h = [.response k (d.raw.take h.block.respLen)] := by
  simp only [busTraffic, hpos, transportRead_ok d hd]

theorem busTraffic_read_failed (hpos : h.pos = .read q) (hd : d.readOk = false) :
    busTraffic d k h = [.readFailed k] := by
  simp only [busTraffic, hpos, transportRead_failed d hd]

/-- Only a write that succeeds and a read put anything on the transport. -/
theorem busTraffic_eq_nil (hw : ∀ q f, h.pos = .write q f → d.writeOk = false)
    (hr : ∀ q, h.pos ≠ .read q) : busTraffic d k h = [] := by
  cases hpos : h.pos with
  | write q f => simp [busTraffic, hpos, hw q f hpos]
  | read q => exact absurd hpos (hr q)
  | _ => simp only [busTraffic, hpos]

theorem busTraffic_between (hb : h.pos.between = true) : busTraffic d k h = [] := by
  obtain hpos | hpos := h.pos.between_iff.mp hb
  · exact busTraffic_eq_nil d k (by simp [hpos]) (by simp [hpos])
  · exact busTraffic_eq_nil d k (by simp [hpos]) (by simp [hpos])

end Traffic

/-- An exchange in flight is followed on through the traffic of one action, and the poller still goes
on what is its own. -/
theorem PollAction.exchange {d : Draw} {h h' : PollState} (ha : PollAction d h h') (hi : h.inv)
    (k : Nat) {t : List BusEvent} (ht : inFlightAfter t = some (h.pos.exchange k))
    (hl : lastIsItsOwn t k h) :
    inFlightAfter (t ++ busTraffic d k h) = some (h'.pos.exchange k) ∧
      lastIsItsOwn (t ++ busTraffic d k h) k h' := by
  cases ha with
  | rests hb =>
    rw [busTraffic_between d k hb, List.append_nil]
    exact ⟨ht, hl⟩
  | builds q b hpos hb =>
    rw [busTraffic_eq_nil d k (by simp [hpos]) (by simp [hpos]), List.append_nil, ht, hpos]
    exact ⟨rfl, trivial⟩
  | writes q f hpos hd =>
    obtain ⟨-, -, rfl⟩ := (PollState.inv_write hpos).mp hi
    rw [busTraffic_write_ok d k hpos hd, inFlightAfter_append t _ _ ht, hpos]
    exact ⟨rfl, List.getLast?_concat⟩
  | failsToWrite q f hpos hd =>
    rw [busTraffic_eq_nil d k (fun _ _ _ => hd) (by simp [hpos]), List.append_nil, ht, hpos]
    exact ⟨rfl, trivial⟩
  | waits q hpos =>
    simp only [lastIsItsOwn, hpos] at hl
    rw [busTraffic_eq_nil d k (by simp [hpos]) (by simp [hpos]), List.append_nil, ht, hpos]
    exact ⟨rfl, hl⟩
  | reads q hpos hd =>
    rw [busTraffic_read_ok d k hpos hd, inFlightAfter_append t _ _ ht, hpos]
    exact ⟨by simp [PollPos.exchange, PollPos.cycleState, exchangeAfter], List.getLast?_concat⟩
  | failsToRead q hpos hd =>
    rw [busTraffic_read_failed d k hpos hd, inFlightAfter_append t _ _ ht, hpos]
    exact ⟨by simp [PollPos.exchange, PollPos.cycleState, exchangeAfter, PollState.abort], trivial⟩
  | decodes q raw b hpos hb hdec =>
    rw [busTraffic_eq_nil d k (by simp [hpos]) (by simp [hpos]), List.append_nil, ht, hpos]
    exact ⟨rfl, trivial⟩
  | records q m hpos =>
    rw [busTraffic_eq_nil d k (by simp [hpos]) (by simp [hpos]), List.append_nil, ht, hpos]
    cases hq : q.next? with
    | some q' =>
      rw [h.record_of_next?_eq_some m hq]
      exact ⟨rfl, trivial⟩
    | none =>
      rw [h.record_of_next?_eq_none m hq]
      exact ⟨rfl, trivial⟩

/-! ## Polls stay serialised -/

/-- A held transport is held by a poller that is there, and by no other. -/
theorem BusState.inv.holder {b : BusState} (hi : b.inv) {k : Nat} (hb : b.holder = some k) :
    ∃ h, b.pollers[k]? = some h ∧ h.inv ∧ inFlightAfter b.traffic = some (h.pos.exchange k) ∧
      lastIsItsOwn b.traffic k h := by
  obtain ⟨hpollers, hheld, -, hflight, hown⟩ := hi
  have hk := List.getElem?_eq_getElem (hheld k hb)
  exact ⟨_, hk, hpollers _ (List.mem_of_getElem? hk), BusState.inFlight_held hb hk ▸ hflight,
    hown k _ hk⟩

/-- Settles O50: the action of the holder keeps its own invariant and follows the exchange in
flight, and no other poller moves. -/
theorem busStepKeepsPollsSerialised : Obligations.BusStepKeepsPollsSerialised := by
  intro d b hi
  cases hb : b.holder with
  | none => exact ⟨b, busStep_free d b hb, hi⟩
  | some k =>
    obtain ⟨h, hk, hinv, hflight, hown⟩ := hi.holder hb
    obtain ⟨h', hstep, ha⟩ := pollStep_action d hinv
    obtain ⟨hflight', hown'⟩ := ha.exchange hinv k hflight hown
    refine ⟨_, busStep_held d b k h h' hb hk hstep, ?_⟩
    refine b.moved_inv k h h' _ hi hk (fun j hj => ?_) (ha.inv hinv) ?_ hown'
    · exact Option.some.inj (hj.symm.trans hb)
    · rw [b.moved_inFlight h' _ (List.getElem?_eq_some_iff.mp hk).1, hflight']

/-- Settles O51: with no poll running and no traffic nothing is in flight, and pollers between
cycles go on nothing. -/
theorem readyBusIsSound : Obligations.ReadyBusIsSound := by
  intro pollers hp
  have hbetween : ∀ (k : Nat) (h : PollState), pollers[k]? = some h → h.pos.between = true :=
    fun k h hk => (hp h (List.mem_of_getElem? hk)).2
  refine ⟨fun h hm => (hp h hm).1, fun k hk => ?_, fun k h hk => ?_, rfl, fun k h hk => ?_⟩
  · cases hk
  · simp [hbetween k h hk]
  · obtain hpos | hpos := h.pos.between_iff.mp (hbetween k h hk)
    · simp only [lastIsItsOwn, hpos]
    · simp only [lastIsItsOwn, hpos]

/-! ## Starting a poll on the transport -/

theorem busPollAll_held (k : Nat) (sid : Byte) {b : BusState} {j : Nat} (hb : b.holder = some j) :
    busPollAll k sid b = .refused .cycleRunning := by
  simp only [busPollAll, hb]

theorem busPollAll_no_poller (k : Nat) (sid : Byte) {b : BusState} (hb : b.holder = none)
    (hk : b.pollers.length ≤ k) : busPollAll k sid b = .next b := by
  simp only [busPollAll, hb, List.getElem?_eq_none hk]

/-- On a free transport no exchange is in flight and every poller is between cycles. -/
theorem BusState.inv.free {b : BusState} (hi : b.inv) (hb : b.holder = none) {k : Nat}
    {h : PollState} (hk : b.pollers[k]? = some h) :
    h.inv ∧ h.pos.between = true ∧ inFlightAfter b.traffic = some none := by
  obtain ⟨hpollers, -, hrunning, hflight, -⟩ := hi
  exact ⟨hpollers h (List.mem_of_getElem? hk), by simpa [hb] using hrunning k h hk,
    BusState.inFlight_free hb ▸ hflight⟩

/-- With no poll running the poller at place `k` starts its cycle within the bus, and soundly. -/
theorem busPollAll_free (k : Nat) (sid : Byte) {b : BusState} {h : PollState} (hi : b.inv)
    (hb : b.holder = none) (hk : b.pollers[k]? = some h) :
    ∃ h', pollAll sid h = .next h' ∧ busPollAll k sid b = .next (b.moved k h' []) ∧
      (b.moved k h' []).inv ∧ h'.inv ∧ h'.slaveId = sid ∧ h'.pos = .build .voltage ∧
      h'.sent = [] := by
  obtain ⟨hinv, hbetween, hflight⟩ := hi.free hb hk
  obtain ⟨h', hstart, hinv', hsid, hpos, -, -⟩ := (cycleStartsFresh sid h hinv).1 hbetween
  have hsent : h'.sent = [] := by cases (pollAll_between sid hbetween).symm.trans hstart; rfl
  refine ⟨h', hstart, ?_, ?_, hinv', hsid, hpos, hsent⟩
  · simp only [busPollAll, hb, hk, hstart]
    rfl
  · refine b.moved_inv k h h' [] hi hk (fun j hj => ?_) hinv' ?_ ?_
    · cases hb.symm.trans hj
    · have hlt := (List.getElem?_eq_some_iff.mp hk).1
      rw [List.append_nil, hflight, b.moved_inFlight h' [] hlt, hpos]
      rfl
    · simp only [lastIsItsOwn, hpos]

/-- Settles O52: the holder alone decides, and the poller that starts is the holder. -/
theorem pollsStartOneAtATime : Obligations.PollsStartOneAtATime := by
  intro k sid b hi
  refine ⟨fun j hj => busPollAll_held k sid hj, fun h hb hk => ?_,
    fun hb hk => busPollAll_no_poller k sid hb hk⟩
  obtain ⟨h', hstart, hbus, hinv, -, -, hpos, -⟩ := busPollAll_free k sid hi hb hk
  exact ⟨_, h', hbus, hinv, by simp [hpos, PollPos.between], hstart, rfl, List.append_nil _⟩

/-! ## Runs of the bus -/

theorem busRun_cons {d : Draw} {b b' : BusState} (hstep : busStep d b = .next b') (ds : List Draw) :
    busRun (d :: ds) b = busRun ds b' := by
  simp only [busRun, hstep]

/-- The invariant of the bus holds along every run. -/
theorem busRun_inv (ds : List Draw) {b : BusState} (hi : b.inv) :
    ∃ b', busRun ds b = .next b' ∧ b'.inv := by
  induction ds generalizing b with
  | nil => exact ⟨b, rfl, hi⟩
  | cons d ds ih =>
    obtain ⟨b₁, hstep, hi₁⟩ := busStepKeepsPollsSerialised d b hi
    rw [busRun_cons hstep]
    exact ih hi₁

theorem BusState.moved_moved (b : BusState) (k : Nat) (h h' : PollState) (e e' : List BusEvent) :
    (b.moved k h e).moved k h' e' = b.moved k h' (e ++ e') := by
  simp [BusState.moved]

/-- A poller that did not move leaves the bus as it was. -/
theorem BusState.moved_unmoved {b : BusState} {k : Nat} {h : PollState}
    (hk : b.pollers[k]? = some h) (hb : b.holder = if h.pos.between then none else some k) :
    b.moved k h [] = b := by
  obtain ⟨hlt, rfl⟩ := List.getElem?_eq_some_iff.mp hk
  simp only [BusState.moved, ← hb, List.set_getElem_self, List.append_nil]

/-- The requests a poller's action puts on the transport are the frames it sends, under its place.
-/
theorem PollAction.requests {d : Draw} {h h' : PollState} (ha : PollAction d h h') (k : Nat) :
    ∃ fs, h'.sent = h.sent ++ fs ∧ requestsOf (busTraffic d k h) = fs.map (Prod.mk k) := by
  cases ha with
  | rests hb => exact ⟨[], by simp, by rw [busTraffic_between d k hb]; rfl⟩
  | writes q f hpos hd => exact ⟨[f], rfl, by rw [busTraffic_write_ok d k hpos hd]; rfl⟩
  | failsToWrite q f hpos hd =>
    exact ⟨[], by simp [PollState.abort],
      by rw [busTraffic_eq_nil d k (fun _ _ _ => hd) (by simp [hpos])]; rfl⟩
  | reads q hpos hd => exact ⟨[], by simp, by rw [busTraffic_read_ok d k hpos hd]; rfl⟩
  | failsToRead q hpos hd =>
    exact ⟨[], by simp [PollState.abort], by rw [busTraffic_read_failed d k hpos hd]; rfl⟩
  | builds q _ hpos _ | waits q hpos | decodes q _ _ hpos _ _ | records q m hpos =>
    exact ⟨[], by simp, by rw [busTraffic_eq_nil d k (by simp [hpos]) (by simp [hpos])]; rfl⟩

/-- While no other poller holds the transport, the bus runs as the poller at place `k` runs by
itself. -/
theorem busRun_eq_moved (ds : List Draw) (k : Nat) {b : BusState} {h h' : PollState} (hi : h.inv)
    (hk : b.pollers[k]? = some h) (hb : b.holder = if h.pos.between then none else some k)
    (hrun : pollRun ds h = .next h') :
    ∃ events fs, busRun ds b = .next (b.moved k h' events) ∧ h'.sent = h.sent ++ fs ∧
      requestsOf events = fs.map (Prod.mk k) := by
  induction ds generalizing b h with
  | nil =>
    cases hrun
    exact ⟨[], [], by rw [BusState.moved_unmoved hk hb]; rfl, by simp, rfl⟩
  | cons d ds ih =>
    cases hbetween : h.pos.between with
    | true =>
      rw [hbetween] at hb
      rw [pollRun_cons (pollStep_between d hbetween)] at hrun
      rw [busRun_cons (busStep_free d b hb)]
      exact ih hi hk (by rw [hbetween, hb]) hrun
    | false =>
      rw [hbetween] at hb
      obtain ⟨h₁, hstep, ha⟩ := pollStep_action d hi
      obtain ⟨fs₁, hsent₁, hreq₁⟩ := ha.requests k
      rw [pollRun_cons hstep] at hrun
      rw [busRun_cons (busStep_held d b k h h₁ hb hk hstep)]
      have hk₁ := b.moved_self k h₁ (busTraffic d k h) (List.getElem?_eq_some_iff.mp hk).1
      obtain ⟨events, fs, hbus, hsent, hreq⟩ := ih (ha.inv hi) hk₁ rfl hrun
      refine ⟨busTraffic d k h ++ events, fs₁ ++ fs, ?_, ?_, ?_⟩
      · rw [hbus, BusState.moved_moved]
      · rw [hsent, hsent₁, List.append_assoc]
      · rw [requestsOf_append, hreq₁, hreq, List.map_append]

/-- Settles O54: the bus runs as the poller's own cycle, whose eight requests are the traffic's. -/
theorem pollOnAFreeTransportCompletes : Obligations.PollOnAFreeTransportCompletes := by
  intro k sid b h ds hi hb hk hlen hok
  obtain ⟨h₀, -, hstart, hinv, hinv₀, hsid, hpos, hsent₀⟩ := busPollAll_free k sid hi hb hk
  obtain ⟨h', hrun, hidle, hnames, hsent⟩ := pollRun_cycle hinv₀ hpos hlen hok
  have hlt := (List.getElem?_eq_some_iff.mp hk).1
  obtain ⟨events, fs, hbus, hfs, hreq⟩ :=
    busRun_eq_moved ds k hinv₀ (b.moved_self k h₀ [] hlt) rfl hrun
  rw [BusState.moved_moved, List.nil_append] at hbus
  obtain ⟨b', hbus', hinv'⟩ := busRun_inv ds hinv
  cases hbus.symm.trans hbus'
  refine ⟨_, _, h', hstart, hbus, hinv', ?_, b.moved_self k h' _ hlt, hnames,
    fun j hj => b.moved_other k j h' _ hj, ?_⟩
  · exact (b.moved_holder_eq_none_iff k h' _).mpr (by rw [hidle]; rfl)
  · obtain rfl : fs = pollOrder.map (requestFor sid) := by
      rw [hsent, hsid, hsent₀, List.nil_append] at hfs
      exact hfs.symm
    rw [BusState.moved_traffic, requestsOf_append, hreq, List.map_map]
    rfl

end Sys2Proof.Machine
end

section
/-! The illegal command: a started command whose code selects no operation (rules R200, R202, R205). -/

namespace Sys2Proof.Machine

open Sys2Proof

/-- R200: after an error STATUS reads the code of that error. -/
theorem readStatus_raiseError (s : State) (e : ErrorKind) :
    readStatus (s.raiseError e) = .ok e.code :=
  readStatus_some _ _ (State.raiseError_res s e)

/-- Settles O5: a code other than the three of R61 selects no operation, so the step raises
`illegalCommand`, which writes RES and the phase alone. -/
theorem illegalCodeCompletesWithError : Obligations.IllegalCodeCompletesWithError := by
  intro s hlen hp h1 h2 h3
  have herr : decodeCmd s.cmd = .error (.illegalCommand s.cmd) := decodeCmd_of_ne s.cmd h1 h2 h3
  exact ⟨s.raiseError .illegalCommand, step_illegal s hlen hp herr, rfl,
    readStatus_raiseError s .illegalCommand⟩

end Sys2Proof.Machine
end

section
/-! Reset and waiting: what reset empties and keeps, and that a block without a started command stays as
it is (rules R230, R231). -/

namespace Sys2Proof.Machine

open Sys2Proof

/-- R231: an idle block waits for a command. -/
theorem step_idle (s : State) (hlen : 5 ≤ s.respLen) (hp : s.phase = .idle) : step s = .next s := by
  obtain ⟨hlow, -⟩ | ⟨-, -, he⟩ | ⟨-, hbusy, -⟩ | ⟨-, hbusy, -⟩ := step_cases s
  · omega
  · exact he
  · cases hp.symm.trans hbusy
  · cases hp.symm.trans hbusy

/-- Settles O4: of the four cases of `step_cases` only the waiting one fits an idle block with a legal
RESP_LEN. -/
theorem idleBlockWaits : Obligations.IdleBlockWaits :=
  step_idle

/-- Settles O7: reset writes the three fields whatever the phase was, and RES and STATUS read as the
fault because RES is empty. -/
theorem resetEmptiesResAndKeepsRespLen : Obligations.ResetEmptiesResAndKeepsRespLen := by
  refine ⟨⟨rfl, rfl, rfl⟩, fun s => ?_⟩
  have hres : (resetBlock s).res = none := resetBlock_res s
  exact ⟨hres, resetBlock_phase s, resetBlock_respLen s, readRes_none _ hres, readStatus_none _ hres⟩

end Sys2Proof.Machine
end

section
/-! The published CRC vectors (W1, W2, W6 and V-C3 of 95_test_vectors.md). -/

namespace Sys2Proof.Machine

open Sys2Proof

/-- W2, the last row of the trace V-C2. -/
theorem crc16_request_header : crc16 [0x01, 0x04, 0x00, 0x00, 0x00, 0x02] = 0xCB71 := by
  decide +kernel

/-- V-C3: the catalogue's check value. -/
theorem crc16_ascii_digits :
    crc16 [0x31, 0x32, 0x33, 0x34, 0x35, 0x36, 0x37, 0x38, 0x39] = 0x4B37 := by
  decide +kernel

/-- W6: the trailer `DE 21` of the response that carries 350.0. -/
theorem crc16_response_body : crc16 [0x01, 0x04, 0x04, 0x43, 0xAF, 0x00, 0x00] = 0x21DE := by
  decide +kernel

/-- Settles O12: the empty sequence leaves the initial accumulator, and each of the other three
folds is evaluated by its own lemma. -/
theorem publishedCrcVectors : Obligations.PublishedCrcVectors :=
  ⟨crc16_nil, crc16_request_header, crc16_ascii_digits, crc16_response_body⟩

end Sys2Proof.Machine
end
